-- ==== Sys2Proof/Word.lean ====
section
/-! DEFINITION. The word types of LEDSEQ: the widths of 00_scope.md R8 and the two encoding spaces of 30_encoding.md
R70. -/

namespace Sys2Proof

/-- One byte: a pixel byte, a byte of the frame store or of the scratch buffer, a byte on the wire (R9). -/
abbrev Byte := BitVec 8

/-- A 16-bit unsigned field (R8). -/
abbrev Half := BitVec 16

/-- A 32-bit field, and the data of a host transaction (R8, R58). -/
abbrev Word := BitVec 32

/-- A 39-bit host word `{we, addr, data}` (R74). -/
abbrev HostWord := BitVec 39

/-- A 6-bit host word index `host_addr` (R51). -/
abbrev HostIndex := BitVec 6

/-- A 4-bit `STEP` code (R71). -/
abbrev MicroCode := BitVec 4

end Sys2Proof
end

