-- ==== Sys2Proof/Config.lean ====
section
/-! DEFINITION. What a realisation of LEDSEQ fixes: the constants of 00_scope.md R7 and the parameters R7 leaves OPEN.
An OPEN parameter is a field of `Params`, which State holds and no step changes, so that a statement about every state
is a statement about every value of it (log 1). -/

namespace Sys2Proof.Config

/-- `LATCH_LEN` (R7): the latch frame is 3 bytes. -/
def latchLen : Nat := 3

/-- `MARKER` (R7): the bit every encoded data byte carries. -/
def marker : Byte := 0x80#8

/-- `DEFAULT_CHANNEL` (R7). -/
def defaultChannel : BitVec 8 := 0#8

/-- `DEFAULT_CLOCK_HZ` (R7). -/
def defaultClockHz : Word := 8000000#32

/-- `DEFAULT_ROW_DELAY_MS` (R7). -/
def defaultRowDelayMs : Half := 1#16

/-- `DEFAULT_PASS_DELAY_MS` (R7). -/
def defaultPassDelayMs : Half := 500#16

/-- The order of the bits of a byte on the serial wire, a property of the transport (20_memory.md R56). -/
inductive WireBitOrder where
  | msbFirst
  | lsbFirst
  deriving DecidableEq, Repr

/-- The parameters that 00_scope.md R7 leaves OPEN. -/
structure Params where
  /-- `MAX_LEDS`: the scratch buffer has `3 * MAX_LEDS` bytes (R39). -/
  maxLeds : Nat
  /-- `FS_BYTES`: the frame store has `FS_BYTES` bytes (R40). -/
  fsBytes : Nat
  /-- `CYCLES_PER_MS`: block clock cycles in a millisecond (R223). -/
  cyclesPerMs : Nat
  /-- `WIRE_BIT_ORDER` (R56). -/
  wireBitOrder : WireBitOrder
  deriving DecidableEq, Repr

/-- The bounds R7 sets on the OPEN parameters. -/
abbrev Params.legal (p : Params) : Prop :=
  1 ≤ p.maxLeds ∧ p.maxLeds ≤ 65535 ∧ 3 ≤ p.fsBytes ∧ p.fsBytes ≤ 2 ^ 32 - 1 ∧ 1 ≤ p.cyclesPerMs

/-- DESIGN CHOICE, log 1: the parameters of the machine `State.reset` describes (those of the programs of
95_test_vectors.md; one clock cycle a millisecond; PRESUMED most significant bit first). No statement rests on
them. -/
def Params.atReset : Params :=
  { maxLeds := 65535, fsBytes := 1048576, cyclesPerMs := 1, wireBitOrder := .msbFirst }

end Sys2Proof.Config
end

