-- ==== Sys2Proof/Syntax.lean ====
section
/-! DEFINITION. The instructions of LEDSEQ (00_scope.md R2): the sixteen sequencer micro-operations, one per `STEP` code
(30_encoding.md R71), and the host-port transactions, one per (direction, register) pair (R75), the reserved indices in
the three rows per direction that R77 gives them. One constructor per row of spec/opcode_table.json, in its order. -/

namespace Sys2Proof

/-- A sequencer micro-operation (no operands) or a host transaction. A write carries the 32 bits of `host_wdata`; a read
carries none, since a read ignores them (R74). A transaction at a reserved index carries that index. -/
inductive Instr where
  -- sequencer micro-operations (R71)
  | waitStart
  | check
  | configure
  | initTransport
  | passTest
  | loadRow
  | encodeBuf
  | txPayload
  | txLatch
  | rowDelay
  | rowNext
  | blankFill
  | passDelay
  | passEnd
  | halt
  | stepRsvd
  -- host transactions (R75)
  | rdCtrl
  | wrCtrl (data : Word)
  | rdStatus
  | wrStatus (data : Word)
  | rdRepeats
  | wrRepeats (data : Word)
  | rdWidth
  | wrWidth (data : Word)
  | rdHeight
  | wrHeight (data : Word)
  | rdChannel
  | wrChannel (data : Word)
  | rdClockHz
  | wrClockHz (data : Word)
  | rdRowDelayMs
  | wrRowDelayMs (data : Word)
  | rdPassDelayMs
  | wrPassDelayMs (data : Word)
  | rdRow
  | wrRow (data : Word)
  | rdFsPtr
  | wrFsPtr (data : Word)
  | rdFsData
  | wrFsData (data : Word)
  -- reserved indices (R77)
  | rdRsvd12to15 (index : HostIndex)
  | rdRsvd16to31 (index : HostIndex)
  | rdRsvd32to63 (index : HostIndex)
  | wrRsvd12to15 (index : HostIndex) (data : Word)
  | wrRsvd16to31 (index : HostIndex) (data : Word)
  | wrRsvd32to63 (index : HostIndex) (data : Word)
  deriving DecidableEq, Repr

/-- An encoded instruction, in one of the two encoding spaces (R70). -/
inductive Code where
  /-- the 4-bit `STEP` code of a micro-operation -/
  | step (c : MicroCode)
  /-- the 39-bit host word of a transaction -/
  | host (w : HostWord)
  deriving DecidableEq, Repr

end Sys2Proof
end

