-- ==== Sys2Proof/WellFormed.lean ====
section
/-! DEFINITION. Which instructions of the syntax the encoding can say: a transaction at a reserved index stands in the row
of its index range (30_encoding.md R75, R77). Every other constructor is well formed with every operand. -/

namespace Sys2Proof

/-- The index range of a row of the reserved indices (R77). -/
def indexWithin (lo hi : Nat) (index : HostIndex) : Bool :=
  decide (lo ≤ index.toNat) && decide (index.toNat ≤ hi)

/-- An instruction is well formed when its reserved index, if it has one, lies in its row's range. -/
def Instr.wf : Instr → Bool
  | .rdRsvd12to15 k => indexWithin 12 15 k
  | .rdRsvd16to31 k => indexWithin 16 31 k
  | .rdRsvd32to63 k => indexWithin 32 63 k
  | .wrRsvd12to15 k _ => indexWithin 12 15 k
  | .wrRsvd16to31 k _ => indexWithin 16 31 k
  | .wrRsvd32to63 k _ => indexWithin 32 63 k
  | .waitStart | .check | .configure | .initTransport | .passTest | .loadRow | .encodeBuf | .txPayload
  | .txLatch | .rowDelay | .rowNext | .blankFill | .passDelay | .passEnd | .halt | .stepRsvd => true
  | .rdCtrl | .rdStatus | .rdRepeats | .rdWidth | .rdHeight | .rdChannel | .rdClockHz | .rdRowDelayMs
  | .rdPassDelayMs | .rdRow | .rdFsPtr | .rdFsData => true
  | .wrCtrl _ | .wrStatus _ | .wrRepeats _ | .wrWidth _ | .wrHeight _ | .wrChannel _ | .wrClockHz _
  | .wrRowDelayMs _ | .wrPassDelayMs _ | .wrRow _ | .wrFsPtr _ | .wrFsData _ => true

end Sys2Proof
end

