-- ==== Sys2Proof/Decode.lean ====
section
/-! DEFINITION. Decoding and encoding in the two spaces of 30_encoding.md R70: the `STEP` codes of R71 and the 39-bit host
words of R74 to R78. The decoder of codes is total and rejects nothing (R80); the decoder of bytes rejects, by name, a
byte string that is no code. -/

namespace Sys2Proof

/-! ## The STEP codes (R71) -/

namespace StepCode

abbrev waitStart : MicroCode := 0x0#4
abbrev check : MicroCode := 0x1#4
abbrev configure : MicroCode := 0x2#4
abbrev initTransport : MicroCode := 0x3#4
abbrev passTest : MicroCode := 0x4#4
abbrev loadRow : MicroCode := 0x5#4
abbrev encodeBuf : MicroCode := 0x6#4
abbrev txPayload : MicroCode := 0x7#4
abbrev txLatch : MicroCode := 0x8#4
abbrev rowDelay : MicroCode := 0x9#4
abbrev rowNext : MicroCode := 0xA#4
abbrev blankFill : MicroCode := 0xB#4
abbrev passDelay : MicroCode := 0xC#4
abbrev passEnd : MicroCode := 0xD#4
abbrev halt : MicroCode := 0xE#4
/-- reserved, never entered (R79, R138) -/
abbrev rsvd : MicroCode := 0xF#4

end StepCode

/-- The micro-operation a `STEP` code names (R71). -/
def decodeStep (c : MicroCode) : Instr :=
  match c.toNat with
  | 0x0 => .waitStart
  | 0x1 => .check
  | 0x2 => .configure
  | 0x3 => .initTransport
  | 0x4 => .passTest
  | 0x5 => .loadRow
  | 0x6 => .encodeBuf
  | 0x7 => .txPayload
  | 0x8 => .txLatch
  | 0x9 => .rowDelay
  | 0xA => .rowNext
  | 0xB => .blankFill
  | 0xC => .passDelay
  | 0xD => .passEnd
  | 0xE => .halt
  | _ => .stepRsvd

/-! ## The host word (R74) -/

/-- `we` = `word[38]`. -/
def hostWe (w : HostWord) : Bool := w.getLsbD 38

/-- `addr` = `word[37:32]`. -/
def hostAddr (w : HostWord) : HostIndex := w.extractLsb' 32 6

/-- `data` = `word[31:0]`. -/
def hostData (w : HostWord) : Word := w.extractLsb' 0 32

/-- `{we, addr, data}` (R74). -/
def hostWord (we : Bool) (addr : HostIndex) (data : Word) : HostWord := (BitVec.ofBool we ++ addr) ++ data

/-- A read of the register at a word index (R75), of a reserved one from 12 up (R77). -/
def decodeRead (addr : HostIndex) : Instr :=
  match addr.toNat with
  | 0 => .rdCtrl
  | 1 => .rdStatus
  | 2 => .rdRepeats
  | 3 => .rdWidth
  | 4 => .rdHeight
  | 5 => .rdChannel
  | 6 => .rdClockHz
  | 7 => .rdRowDelayMs
  | 8 => .rdPassDelayMs
  | 9 => .rdRow
  | 10 => .rdFsPtr
  | 11 => .rdFsData
  | n => if n < 16 then .rdRsvd12to15 addr else if n < 32 then .rdRsvd16to31 addr else .rdRsvd32to63 addr

/-- A write of the register at a word index (R75), of a reserved one from 12 up (R77). -/
def decodeWrite (addr : HostIndex) (data : Word) : Instr :=
  match addr.toNat with
  | 0 => .wrCtrl data
  | 1 => .wrStatus data
  | 2 => .wrRepeats data
  | 3 => .wrWidth data
  | 4 => .wrHeight data
  | 5 => .wrChannel data
  | 6 => .wrClockHz data
  | 7 => .wrRowDelayMs data
  | 8 => .wrPassDelayMs data
  | 9 => .wrRow data
  | 10 => .wrFsPtr data
  | 11 => .wrFsData data
  | n =>
    if n < 16 then .wrRsvd12to15 addr data
    else if n < 32 then .wrRsvd16to31 addr data
    else .wrRsvd32to63 addr data

/-- The transaction a host word names; the decoder is total, no host word is illegal (R80). -/
def decodeHost (w : HostWord) : Instr :=
  if hostWe w then decodeWrite (hostAddr w) (hostData w) else decodeRead (hostAddr w)

/-- The instruction a code names, in either space (R70). -/
def decode : Code → Instr
  | .step c => decodeStep c
  | .host w => decodeHost w

/-! ## Bytes -/

/-- Why a byte string is no code. -/
inductive DecodeError where
  /-- neither the one byte of a `STEP` code nor the five bytes of a host word -/
  | length
  /-- a bit above the 4 bits of a `STEP` code or the 39 bits of a host word is set -/
  | padding
  deriving DecidableEq, Repr

/-- The number that bytes hold, the first byte least significant. -/
def bytesToNat : List Byte → Nat
  | [] => 0
  | b :: bs => b.toNat + 256 * bytesToNat bs

/-- The `n` bytes of a number, the first byte least significant. -/
def natToBytes : Nat → Nat → List Byte
  | 0, _ => []
  | n + 1, w => BitVec.ofNat 8 w :: natToBytes n (w / 256)

/-- DESIGN CHOICE, log 13: the spec stores no code in a memory; one byte is a `STEP` code, five bytes are a host word,
the first byte least significant, and the bits above the code's width are 0. -/
def codeOfBytes (bs : List Byte) : Except DecodeError Code :=
  if bs.length = 1 then
    if bytesToNat bs < 2 ^ 4 then .ok (.step (BitVec.ofNat 4 (bytesToNat bs))) else .error .padding
  else if bs.length = 5 then
    if bytesToNat bs < 2 ^ 39 then .ok (.host (BitVec.ofNat 39 (bytesToNat bs))) else .error .padding
  else .error .length

/-- The decoder of bytes. -/
def decodeBytes (bs : List Byte) : Except DecodeError Instr :=
  match codeOfBytes bs with
  | .ok c => .ok (decode c)
  | .error e => .error e

/-- A row of spec/opcode_table.json of up to 32 bits is a `STEP` row (4 bits), a wider one a host row (39 bits); the
word goes through the decoder of bytes (log 13). -/
def decodeTableWord (nbits w : Nat) : Option Instr :=
  match decodeBytes (natToBytes (if nbits ≤ 32 then 1 else 5) w) with
  | .ok i => if w < (if nbits ≤ 32 then 2 ^ 8 else 2 ^ 40) then some i else none
  | .error _ => none

/-! ## Encoding -/

/-- `{0, index, 0}`: the data of an encoded read is 0 (R74). -/
def encodeRead (index : HostIndex) : Code := .host (hostWord false index 0#32)

/-- `{1, index, data}` (R74). -/
def encodeWrite (index : HostIndex) (data : Word) : Code := .host (hostWord true index data)

/-- The code of an instruction (R71, R75, R77). -/
def encode : Instr → Code
  | .waitStart => .step StepCode.waitStart
  | .check => .step StepCode.check
  | .configure => .step StepCode.configure
  | .initTransport => .step StepCode.initTransport
  | .passTest => .step StepCode.passTest
  | .loadRow => .step StepCode.loadRow
  | .encodeBuf => .step StepCode.encodeBuf
  | .txPayload => .step StepCode.txPayload
  | .txLatch => .step StepCode.txLatch
  | .rowDelay => .step StepCode.rowDelay
  | .rowNext => .step StepCode.rowNext
  | .blankFill => .step StepCode.blankFill
  | .passDelay => .step StepCode.passDelay
  | .passEnd => .step StepCode.passEnd
  | .halt => .step StepCode.halt
  | .stepRsvd => .step StepCode.rsvd
  | .rdCtrl => encodeRead 0#6
  | .wrCtrl d => encodeWrite 0#6 d
  | .rdStatus => encodeRead 1#6
  | .wrStatus d => encodeWrite 1#6 d
  | .rdRepeats => encodeRead 2#6
  | .wrRepeats d => encodeWrite 2#6 d
  | .rdWidth => encodeRead 3#6
  | .wrWidth d => encodeWrite 3#6 d
  | .rdHeight => encodeRead 4#6
  | .wrHeight d => encodeWrite 4#6 d
  | .rdChannel => encodeRead 5#6
  | .wrChannel d => encodeWrite 5#6 d
  | .rdClockHz => encodeRead 6#6
  | .wrClockHz d => encodeWrite 6#6 d
  | .rdRowDelayMs => encodeRead 7#6
  | .wrRowDelayMs d => encodeWrite 7#6 d
  | .rdPassDelayMs => encodeRead 8#6
  | .wrPassDelayMs d => encodeWrite 8#6 d
  | .rdRow => encodeRead 9#6
  | .wrRow d => encodeWrite 9#6 d
  | .rdFsPtr => encodeRead 10#6
  | .wrFsPtr d => encodeWrite 10#6 d
  | .rdFsData => encodeRead 11#6
  | .wrFsData d => encodeWrite 11#6 d
  | .rdRsvd12to15 k => encodeRead k
  | .rdRsvd16to31 k => encodeRead k
  | .rdRsvd32to63 k => encodeRead k
  | .wrRsvd12to15 k d => encodeWrite k d
  | .wrRsvd16to31 k d => encodeWrite k d
  | .wrRsvd32to63 k d => encodeWrite k d

/-! ## The opcode table -/

/-- A row of spec/opcode_table.json: its mnemonic, and the mask and match that select its words in its space. -/
structure OpcodeRow where
  mnemonic : String
  mask : Nat
  value : Nat
  deriving DecidableEq, Repr

/-- A row selects the words that equal its match under its mask. -/
def OpcodeRow.selects (r : OpcodeRow) (bits : Nat) : Bool := (bits &&& r.mask) == r.value

/-- The rows of format `STEP`. -/
def stepRows : List OpcodeRow :=
  [⟨"WAIT_START", 0xF, 0x0⟩, ⟨"CHECK", 0xF, 0x1⟩, ⟨"CONFIGURE", 0xF, 0x2⟩, ⟨"INITIALIZE", 0xF, 0x3⟩,
   ⟨"PASS_TEST", 0xF, 0x4⟩, ⟨"LOAD_ROW", 0xF, 0x5⟩, ⟨"ENCODE", 0xF, 0x6⟩, ⟨"TX_PAYLOAD", 0xF, 0x7⟩,
   ⟨"TX_LATCH", 0xF, 0x8⟩, ⟨"ROW_DELAY", 0xF, 0x9⟩, ⟨"ROW_NEXT", 0xF, 0xA⟩, ⟨"BLANK_FILL", 0xF, 0xB⟩,
   ⟨"PASS_DELAY", 0xF, 0xC⟩, ⟨"PASS_END", 0xF, 0xD⟩, ⟨"HALT", 0xF, 0xE⟩, ⟨"STEP_RSVD", 0xF, 0xF⟩]

/-- The rows of format `HOST` for the reads. -/
def hostReadRows : List OpcodeRow :=
  [⟨"RD_CTRL", 0x7F00000000, 0x0000000000⟩, ⟨"RD_STATUS", 0x7F00000000, 0x0100000000⟩,
   ⟨"RD_REPEATS", 0x7F00000000, 0x0200000000⟩, ⟨"RD_WIDTH", 0x7F00000000, 0x0300000000⟩,
   ⟨"RD_HEIGHT", 0x7F00000000, 0x0400000000⟩, ⟨"RD_CHANNEL", 0x7F00000000, 0x0500000000⟩,
   ⟨"RD_CLOCK_HZ", 0x7F00000000, 0x0600000000⟩, ⟨"RD_ROW_DELAY_MS", 0x7F00000000, 0x0700000000⟩,
   ⟨"RD_PASS_DELAY_MS", 0x7F00000000, 0x0800000000⟩, ⟨"RD_ROW", 0x7F00000000, 0x0900000000⟩,
   ⟨"RD_FS_PTR", 0x7F00000000, 0x0A00000000⟩, ⟨"RD_FS_DATA", 0x7F00000000, 0x0B00000000⟩,
   ⟨"RD_RSVD_12_15", 0x7C00000000, 0x0C00000000⟩, ⟨"RD_RSVD_16_31", 0x7000000000, 0x1000000000⟩,
   ⟨"RD_RSVD_32_63", 0x6000000000, 0x2000000000⟩]

/-- The rows of format `HOST` for the writes. -/
def hostWriteRows : List OpcodeRow :=
  [⟨"WR_CTRL", 0x7F00000000, 0x4000000000⟩, ⟨"WR_STATUS", 0x7F00000000, 0x4100000000⟩,
   ⟨"WR_REPEATS", 0x7F00000000, 0x4200000000⟩, ⟨"WR_WIDTH", 0x7F00000000, 0x4300000000⟩,
   ⟨"WR_HEIGHT", 0x7F00000000, 0x4400000000⟩, ⟨"WR_CHANNEL", 0x7F00000000, 0x4500000000⟩,
   ⟨"WR_CLOCK_HZ", 0x7F00000000, 0x4600000000⟩, ⟨"WR_ROW_DELAY_MS", 0x7F00000000, 0x4700000000⟩,
   ⟨"WR_PASS_DELAY_MS", 0x7F00000000, 0x4800000000⟩, ⟨"WR_ROW", 0x7F00000000, 0x4900000000⟩,
   ⟨"WR_FS_PTR", 0x7F00000000, 0x4A00000000⟩, ⟨"WR_FS_DATA", 0x7F00000000, 0x4B00000000⟩,
   ⟨"WR_RSVD_12_15", 0x7C00000000, 0x4C00000000⟩, ⟨"WR_RSVD_16_31", 0x7000000000, 0x5000000000⟩,
   ⟨"WR_RSVD_32_63", 0x6000000000, 0x6000000000⟩]

/-- The rows of format `HOST`. -/
def hostRows : List OpcodeRow := hostReadRows ++ hostWriteRows

/-- The mnemonic of an instruction's row of spec/opcode_table.json. -/
def Instr.mnemonic : Instr → String
  | .waitStart => "WAIT_START"
  | .check => "CHECK"
  | .configure => "CONFIGURE"
  | .initTransport => "INITIALIZE"
  | .passTest => "PASS_TEST"
  | .loadRow => "LOAD_ROW"
  | .encodeBuf => "ENCODE"
  | .txPayload => "TX_PAYLOAD"
  | .txLatch => "TX_LATCH"
  | .rowDelay => "ROW_DELAY"
  | .rowNext => "ROW_NEXT"
  | .blankFill => "BLANK_FILL"
  | .passDelay => "PASS_DELAY"
  | .passEnd => "PASS_END"
  | .halt => "HALT"
  | .stepRsvd => "STEP_RSVD"
  | .rdCtrl => "RD_CTRL"
  | .wrCtrl _ => "WR_CTRL"
  | .rdStatus => "RD_STATUS"
  | .wrStatus _ => "WR_STATUS"
  | .rdRepeats => "RD_REPEATS"
  | .wrRepeats _ => "WR_REPEATS"
  | .rdWidth => "RD_WIDTH"
  | .wrWidth _ => "WR_WIDTH"
  | .rdHeight => "RD_HEIGHT"
  | .wrHeight _ => "WR_HEIGHT"
  | .rdChannel => "RD_CHANNEL"
  | .wrChannel _ => "WR_CHANNEL"
  | .rdClockHz => "RD_CLOCK_HZ"
  | .wrClockHz _ => "WR_CLOCK_HZ"
  | .rdRowDelayMs => "RD_ROW_DELAY_MS"
  | .wrRowDelayMs _ => "WR_ROW_DELAY_MS"
  | .rdPassDelayMs => "RD_PASS_DELAY_MS"
  | .wrPassDelayMs _ => "WR_PASS_DELAY_MS"
  | .rdRow => "RD_ROW"
  | .wrRow _ => "WR_ROW"
  | .rdFsPtr => "RD_FS_PTR"
  | .wrFsPtr _ => "WR_FS_PTR"
  | .rdFsData => "RD_FS_DATA"
  | .wrFsData _ => "WR_FS_DATA"
  | .rdRsvd12to15 _ => "RD_RSVD_12_15"
  | .rdRsvd16to31 _ => "RD_RSVD_16_31"
  | .rdRsvd32to63 _ => "RD_RSVD_32_63"
  | .wrRsvd12to15 _ _ => "WR_RSVD_12_15"
  | .wrRsvd16to31 _ _ => "WR_RSVD_16_31"
  | .wrRsvd32to63 _ _ => "WR_RSVD_32_63"

end Sys2Proof
end

