-- ==== Sys2Proof/Machine/State.lean ====
section
/-! DEFINITION. The state of LEDSEQ: the complete list of 10_state.md R20, the interface of R46 and R48, the observation
history of R34, the parameters of 00_scope.md R7, and the order of the agents' turns (R6, R62). Plain data. -/

namespace Sys2Proof.Machine

open Sys2Proof.Config (Params)

/-- `STATE`, the sequencer's top-level state (10_state.md R21), one constructor per 3-bit code. -/
inductive Phase where
  | idle
  | configuring
  | running
  | blanking
  | terminated
  | failed
  /-- code 6, never entered (R21, R79) -/
  | reserved6
  /-- code 7, never entered (R21, R79) -/
  | reserved7
  deriving DecidableEq, Repr

/-- `ERR`, the code of the fatal error that put the block in `FAILED` (60_exceptions.md R201). -/
inductive ErrCode where
  | none
  | geometry
  | capacity
  | truncated
  | configure
  | initTransport
  | rowPayload
  | rowLatch
  | blankPayload
  | blankLatch
  /-- codes 10..15, never produced (R201, R79) -/
  | reserved (k : Fin 6)
  deriving DecidableEq, Repr

/-- The transport's answer to a request (10_state.md R31). -/
inductive Answer where
  | ok
  | err
  deriving DecidableEq, Repr

/-- A transport request (10_state.md R31). -/
inductive Request where
  /-- `CFG(channel, clockHz)`, issued by `CONFIGURE` -/
  | cfg (channel : BitVec 8) (clockHz : Word)
  /-- `INIT`, issued by `INITIALIZE` -/
  | init
  /-- `WR(channel, bytes)`, issued by `TX_PAYLOAD` and `TX_LATCH`, byte 0 first -/
  | wr (channel : BitVec 8) (bytes : List Byte)
  deriving DecidableEq, Repr

/-- A transport request that is issued and not yet answered (10_state.md R46), and how far its byte stream has come: the
number of its bytes that the transport has accepted (R48, log 16). -/
structure Pending where
  request : Request
  sent : Nat
  deriving DecidableEq, Repr

/-- An event of the observation history (10_state.md R34). -/
inductive Event where
  | configure (channel : BitVec 8) (clockHz : Word) (ans : Answer)
  | initTransport (ans : Answer)
  | write (channel : BitVec 8) (bytes : List Byte) (ans : Answer)
  | delayDone (ms : Half)
  deriving DecidableEq, Repr

/-- One agent's step, in the total order of all steps (00_scope.md R6, 20_memory.md R62). DESIGN CHOICE, log 2. -/
inductive Turn where
  /-- the sequencer, with no answer from the transport -/
  | sequencer
  /-- the transport answers the request of the current micro-operation -/
  | transport (ans : Answer)
  /-- the transport answers a request that reset abandoned (70_reset_and_hazards.md R232; log 4) -/
  | abandoned (ans : Answer)
  /-- `tx_data_ready` = 1 at a clock edge: the transport accepts the byte presented, if one is (R48) -/
  | txDataReady
  /-- the host presents a transaction -/
  | host (word : HostWord)
  /-- one millisecond of the delay timer (60_exceptions.md R220) -/
  | tick
  /-- one block clock cycle of the delay timer (60_exceptions.md R223) -/
  | cycle
  /-- `rst = 1` at a clock edge (70_reset_and_hazards.md R230) -/
  | reset
  deriving DecidableEq, Repr

/-- Byte storage: (address, byte) pairs, addresses strictly rising; an address not listed holds no known value. -/
abbrev Memory := List Host.Cell

/-- The state of the machine. -/
structure State where
  /-- the OPEN parameters of this machine (00_scope.md R7); no step changes them -/
  cfg : Params
  -- configuration
  /-- `WIDTH` (R28) -/
  width : Half
  /-- `HEIGHT` (R29) -/
  height : Half
  /-- `REPEATS`, two's complement (R23) -/
  repeats : Word
  /-- `CHANNEL` (R30) -/
  channel : BitVec 8
  /-- `CLOCK_HZ` (R30) -/
  clockHz : Word
  /-- `ROW_DELAY_MS` (R30) -/
  rowDelayMs : Half
  /-- `PASS_DELAY_MS` (R30) -/
  passDelayMs : Half
  /-- `GAMMA_EN` (R32) -/
  gammaEn : Bool
  -- control
  /-- `STATE` (R21) -/
  state : Phase
  /-- `STEP` (R22) -/
  stepCode : MicroCode
  /-- `ROW` (R24) -/
  row : Half
  /-- `ERR` (R25) -/
  err : ErrCode
  /-- `DLY_CNT` (R26) -/
  dlyCnt : Half
  /-- `PRESC` (R27); the spec gives it no width -/
  presc : Nat
  -- frame-store port
  /-- `FS_PTR` (R35) -/
  fsPtr : Word
  /-- `FS_OVF` (R36) -/
  fsOvf : Bool
  -- storage
  /-- the frame store `FS` (R40) -/
  fs : Memory
  /-- the scratch buffer (R39) -/
  scratch : Memory
  -- interface
  /-- the pending transport request (R46), with the place its byte stream has reached (R48) -/
  txPending : Option Pending
  /-- the answer `tx_done`/`tx_err` presented to the current micro-operation (R48, R121) -/
  txAnswer : Option Answer
  /-- `host_rdata`, valid in the cycle after a read (R48) -/
  hostRdata : Option Word
  -- bookkeeping
  /-- the observation history, oldest event first (R34) -/
  history : List Event
  /-- the agents' turns still to come (log 2) -/
  agenda : List Turn
  deriving DecidableEq, Repr

/-- The reasons a step can stop. Each is what the spec asks of a model that finds itself where no rule leads
(93_implementation_defined.md); none can be reached under the rules. -/
inductive Fault where
  /-- `STEP` = 0xF (41_sequencer.md R138, I7); raised by STEP_RSVD. Safe: the spec asks for the fault. -/
  | reservedStep
  /-- a pair (`STATE`, `STEP`) outside 30_encoding.md R73 (I7); raised by the micro-operation that finds it. Safe: the
  spec asks for the fault. -/
  | illegalPair (state : Phase) (step : MicroCode)
  /-- an `ERR` code 10..15 (I8); raised by HALT. Safe: the spec asks for the fault. -/
  | reservedErr
  /-- a frame-store address at or above `FS_BYTES` (R40); raised by LOAD_ROW. Safe: the address does not exist. -/
  | fsOutside (addr : Nat)
  /-- a frame-store byte not written since reset or `FS_RESET` (I1, D33); raised by LOAD_ROW. Safe: the spec asks for
  the fault. -/
  | fsUnwritten (addr : Nat)
  /-- a scratch address at or above `3 * MAX_LEDS` (R39); raised by LOAD_ROW, ENCODE, TX_PAYLOAD and BLANK_FILL. Safe:
  the address does not exist. -/
  | scratchOutside (addr : Nat)
  /-- a scratch byte never written (I2, D33); raised by ENCODE and TX_PAYLOAD. Safe: the spec asks for the fault. -/
  | scratchUnwritten (addr : Nat)
  deriving DecidableEq, Repr

/-- The reasons to give an instruction no meaning. -/
inductive Refusal where
  /-- the instruction has no meaning in this model yet; raised by `exec` alone, for a rejected arm. Safe. -/
  | notModelled (mnemonic : String)
  deriving DecidableEq, Repr

/-- The three outcomes of a step of this machine. -/
abbrev Outcome := Host.Outcome State Fault Refusal

/-- The machine right after reset (70_reset_and_hazards.md R231). The frame store and the scratch buffer hold no known
value (log 6, log 7); the parameters are log 1's, and no turn is scheduled (log 2). -/
def State.reset : State :=
  { cfg := Params.atReset
    width := 0#16
    height := 0#16
    repeats := 0#32
    channel := Config.defaultChannel
    clockHz := Config.defaultClockHz
    rowDelayMs := Config.defaultRowDelayMs
    passDelayMs := Config.defaultPassDelayMs
    gammaEn := false
    state := .idle
    stepCode := StepCode.waitStart
    row := 0#16
    err := .none
    dlyCnt := 0#16
    presc := 0
    fsPtr := 0#32
    fsOvf := false
    fs := []
    scratch := []
    txPending := none
    txAnswer := none
    hostRdata := none
    history := []
    agenda := [] }

end Sys2Proof.Machine
end

