-- ==== Sys2Proof/Machine/Ops.lean ====
section
/-! DEFINITION. The operations the meanings share: byte storage and its two uses (the frame store of 10_state.md R40, the
scratch buffer of R39), control transfer and fatal entry (60_exceptions.md R202), transport requests (41_sequencer.md
R121), the host port's lock and read data (42_host_interface.md R161, R160), the delay timer (60_exceptions.md R220,
R223) and reset (70_reset_and_hazards.md R230). -/

namespace Sys2Proof.Machine

/-! ## Byte storage -/

/-- What an address that is not listed reads as: no value, in both storages (I1, I2; log 6, log 7). -/
def Memory.unlisted : Option Byte := none

/-- `MemRead(a, 1)` (00_scope.md R9): the byte at an address. -/
def Memory.read : Memory → Nat → Option Byte
  | [], _ => Memory.unlisted
  | (k, v) :: rest, a => if a = k then some v else Memory.read rest a

/-- `MemWrite(a, 1, b)` (R9), keeping the addresses strictly rising. -/
def Memory.write : Memory → Nat → Byte → Memory
  | [], a, b => [(a, b)]
  | (k, v) :: rest, a, b =>
    if a < k then (a, b) :: (k, v) :: rest
    else if a = k then (a, b) :: rest
    else (k, v) :: Memory.write rest a b

/-- Bytes at consecutive addresses from `base` up. -/
def Memory.writeBytes (m : Memory) (base : Nat) : List Byte → Memory
  | [] => m
  | b :: bs => Memory.writeBytes (m.write base b) (base + 1) bs

/-- The canonical form: addresses strictly rising. -/
abbrev Memory.wf (m : Memory) : Prop := List.Pairwise (fun x y => x.1 < y.1) m

/-- The first `n` bytes from `base` up, through a read that can fault; the first fault is the outcome. -/
def readRange (rd : Nat → Except Fault Byte) (base : Nat) : Nat → Except Fault (List Byte)
  | 0 => .ok []
  | n + 1 =>
    match rd base with
    | .error f => .error f
    | .ok b =>
      match readRange rd (base + 1) n with
      | .error f => .error f
      | .ok bs => .ok (b :: bs)

/-! ## Frame geometry -/

/-- The length of a frame, `3 * WIDTH` (10_state.md R28). -/
def State.rowBytes (s : State) : Nat := 3 * s.width.toNat

/-- `n = 3 * WIDTH * HEIGHT`, exact (41_sequencer.md R123, R141). -/
def State.imageBytes (s : State) : Nat := 3 * s.width.toNat * s.height.toNat

/-- `base = ROW * 3 * WIDTH` (41_sequencer.md R128, 20_memory.md R54), exact. -/
def State.rowBase (s : State) : Nat := s.row.toNat * 3 * s.width.toNat

/-! ## Frame store and scratch buffer -/

/-- `FSRead(a)` (R9). An address at or above `FS_BYTES` does not exist (R40); a byte not written since reset or
`FS_RESET`, that is one at or above `FS_PTR` (42_host_interface.md R184), has no value to read (I1, D33, log 6). -/
def fsRead (s : State) (a : Nat) : Except Fault Byte :=
  if a < s.cfg.fsBytes then
    if a < s.fsPtr.toNat then
      match s.fs.read a with
      | some b => .ok b
      | none => .error (.fsUnwritten a)
    else .error (.fsUnwritten a)
  else .error (.fsOutside a)

/-- `FSWrite(FS_PTR, b); FS_PTR <- FS_PTR + 1` (42_host_interface.md R184). -/
def fsAppend (b : Byte) (s : State) : State :=
  { s with fs := s.fs.write s.fsPtr.toNat b, fsPtr := s.fsPtr + 1#32 }

/-- A scratch byte: `3 * MAX_LEDS` bytes exist (R39); one at or above `3 * WIDTH`, or never written, has no value to
read (I2, D33, log 7). -/
def scratchRead (s : State) (a : Nat) : Except Fault Byte :=
  if a < 3 * s.cfg.maxLeds then
    if a < s.rowBytes then
      match s.scratch.read a with
      | some b => .ok b
      | none => .error (.scratchUnwritten a)
    else .error (.scratchUnwritten a)
  else .error (.scratchOutside a)

/-- `scratch[0 .. #bs) <- bs`; nothing is written if part of it does not exist (R39). -/
def scratchStore (s : State) (bs : List Byte) : Except Fault State :=
  if bs.length ≤ 3 * s.cfg.maxLeds then .ok { s with scratch := s.scratch.writeBytes 0 bs }
  else .error (.scratchOutside (3 * s.cfg.maxLeds))

/-- Go on with a value, or stop with the fault met on the way to it. -/
def orFault {α : Type} (x : Except Fault α) (k : α → Outcome) : Outcome :=
  match x with
  | .ok v => k v
  | .error f => .fault f

/-! ## Control transfer -/

/-- `(STATE, STEP) <- (p, c)` (00_scope.md R9). -/
def State.goto (s : State) (p : Phase) (c : MicroCode) : State := { s with state := p, stepCode := c }

/-- `STEP <- c`. -/
def State.goStep (s : State) (c : MicroCode) : State := { s with stepCode := c }

/-- The states in which a `STEP` code may stand (30_encoding.md R73). -/
def legalPhases (c : MicroCode) : List Phase :=
  match c.toNat with
  | 0x0 => [.idle]
  | 0x1 | 0x2 | 0x3 | 0x4 => [.configuring]
  | 0x5 | 0x9 | 0xA => [.running]
  | 0x6 | 0x7 | 0x8 => [.running, .blanking]
  | 0xB | 0xC | 0xD => [.blanking]
  | 0xE => [.terminated, .failed]
  | _ => []

/-- A micro-operation runs only in a state its code may stand in; a model that finds another pair must fault
(30_encoding.md R73, I7). -/
def onLegalPair (c : MicroCode) (s : State) (k : Outcome) : Outcome :=
  if s.state ∈ legalPhases c then k else .fault (.illegalPair s.state c)

/-- `hold` (41_sequencer.md R121): the micro-operation is not enabled, the turn changes nothing (log 3). -/
def hold (s : State) : Outcome := .next s

/-- `raise Fatal(code)`, the block's only exception (60_exceptions.md R202). There is no return from it (R205). -/
def raiseFatal (code : ErrCode) (s : State) : State :=
  { s with err := code, state := .failed, stepCode := StepCode.halt }

/-! ## Observation history -/

/-- `Emit(e)` (00_scope.md R9). -/
def emit (e : Event) (s : State) : State := { s with history := s.history ++ [e] }

/-! ## Transport requests -/

/-- The micro-operations that issue a transport request (41_sequencer.md R121). -/
def isTransportStep (c : MicroCode) : Bool :=
  c == StepCode.configure || c == StepCode.initTransport || c == StepCode.txPayload || c == StepCode.txLatch

/-- The bytes of a `WR`, in the order the stream delivers them (10_state.md R31, R48); the other requests have none. -/
def Request.data : Request → List Byte
  | .cfg _ _ => []
  | .init => []
  | .wr _ bs => bs

/-- How many bytes of the request `r` the transport has accepted: none if it is not the one pending. -/
def State.sentOf (s : State) (r : Request) : Nat :=
  match s.txPending with
  | some p => if p.request = r then p.sent else 0
  | none => 0

/-- The request `r` is presented (10_state.md R46, R48): its byte stream starts at byte 0, and if it is pending already,
nothing changes. -/
def issue (r : Request) (s : State) : State := { s with txPending := some { request := r, sent := s.sentOf r } }

/-- `tx_data`: the next byte of the pending request's stream, while one is left (10_state.md R48, R55; log 16). -/
def State.txData (s : State) : Option Byte := s.txPending.bind fun p => p.request.data[p.sent]?

/-- One more byte of the stream accepted, while one is left. -/
def Pending.accept (p : Pending) : Pending :=
  if p.sent < p.request.data.length then { p with sent := p.sent + 1 } else p

/-- `tx_data_ready` at a clock edge: one byte per accepted handshake, and none where `tx_data_valid` = 0 (10_state.md
R48). -/
def acceptByte (s : State) : State := { s with txPending := s.txPending.map Pending.accept }

/-- `ans = Request(r); Emit(event ans); if ans = Ok: onOk else: raise Fatal(code)` (41_sequencer.md R124, R125, R130,
R131), issue, answer and update in one step (R121). Until the transport answers, the request is pending and the
micro-operation holds (R46, R238; log 4). -/
def transact (r : Request) (event : Answer → Event) (code : ErrCode) (onOk : State → State) (s : State) : Outcome :=
  match s.txAnswer with
  | none => .next (issue r s)
  | some .ok => .next (onOk (emit (event .ok) { s with txPending := none, txAnswer := none }))
  | some .err => .next (raiseFatal code (emit (event .err) { s with txPending := none, txAnswer := none }))

/-! ## Host port -/

/-- The configuration lock: a write has its effect only in `IDLE` and none at all elsewhere (42_host_interface.md
R161). -/
def whenIdle (f : State → State) (s : State) : State := if s.state = .idle then f s else s

/-- A read returns a value on `host_rdata` and changes nothing (42_host_interface.md R160, 10_state.md R48). -/
def hostReturn (v : Word) (s : State) : State := { s with hostRdata := some v }

/-- The cycle after a read is over: `host_rdata` holds no valid value (R48, log 5). -/
def State.endRead (s : State) : State := { s with hostRdata := none }

/-! ## Delay timer -/

/-- The delay micro-operations, `ROW_DELAY` and `PASS_DELAY`. -/
def isDelayStep (c : MicroCode) : Bool := c == StepCode.rowDelay || c == StepCode.passDelay

/-- One tick (60_exceptions.md R220). -/
def tick (s : State) : State :=
  if (s.state = .running ∨ s.state = .blanking) ∧ isDelayStep s.stepCode = true ∧ 0 < s.dlyCnt.toNat then
    { s with dlyCnt := s.dlyCnt - 1#16 }
  else s

/-- One block clock cycle (60_exceptions.md R223). -/
def clockCycle (s : State) : State :=
  if isDelayStep s.stepCode = true ∧ 0 < s.dlyCnt.toNat then
    if s.presc = s.cfg.cyclesPerMs - 1 then tick { s with presc := 0 } else { s with presc := s.presc + 1 }
  else s

/-! ## Reset -/

/-- Reset sets every field to its reset value, abandons a pending request and starts an empty history
(70_reset_and_hazards.md R230 to R232); it clears neither the frame store nor the scratch buffer (R233). The
parameters and the turns to come are no hardware state and stay (log 8). -/
def resetAction (s : State) : State :=
  { State.reset with cfg := s.cfg, fs := s.fs, scratch := s.scratch, agenda := s.agenda }

/-! ## Turns -/

/-- The agent that takes the next step; with nothing scheduled, the sequencer (log 2). -/
def State.nextTurn (s : State) : Turn := s.agenda.headD .sequencer

/-- The state with the next turn taken off the agenda. -/
def State.dropTurn (s : State) : State := { s with agenda := s.agenda.tail }

end Sys2Proof.Machine
end

