-- ==== Sys2Proof/Machine/Configuring.lean ====
section
/-! DEFINITION. The micro-operations before the first pass (41_sequencer.md R122 to R127). -/

namespace Sys2Proof.Machine

/-- WAIT_START (R122): never enabled; only a host START leaves it. -/
def execWaitStart (s : State) : Outcome := onLegalPair StepCode.waitStart s (hold s)

/-- The outcome of the start checks (R123), the first failing one in the order written (60_exceptions.md R204). -/
def startCheck (s : State) : Option ErrCode :=
  if s.width.toNat = 0 ∨ s.height.toNat = 0 then some .geometry
  else if s.cfg.maxLeds < s.width.toNat ∨ s.cfg.fsBytes < s.imageBytes then some .capacity
  else if s.fsPtr.toNat < s.imageBytes then some .truncated
  else none

/-- CHECK (R123). -/
def execCheck (s : State) : Outcome :=
  onLegalPair StepCode.check s <|
    match startCheck s with
    | some code => .next (raiseFatal code s)
    | none => .next (s.goStep StepCode.configure)

/-- CONFIGURE (R124). -/
def execConfigure (s : State) : Outcome :=
  onLegalPair StepCode.configure s <|
    transact (.cfg s.channel s.clockHz) (.configure s.channel s.clockHz) .configure
      (fun s' => s'.goStep StepCode.initTransport) s

/-- INITIALIZE (R125). -/
def execInitTransport (s : State) : Outcome :=
  onLegalPair StepCode.initTransport s <|
    transact .init .initTransport .initTransport (fun s' => s'.goStep StepCode.passTest) s

/-- `REPEATS > 0`, signed (00_scope.md R10). -/
def repeatsPositive (r : Word) : Bool := decide (0 < r.toInt)

/-- PASS_TEST (R126); for a non-positive `REPEATS` no pass runs (R127). -/
def execPassTest (s : State) : Outcome :=
  onLegalPair StepCode.passTest s <|
    if repeatsPositive s.repeats then .next ({ s with row := 0#16 }.goto .running StepCode.loadRow)
    else .next (s.goto .terminated StepCode.halt)

end Sys2Proof.Machine
end

