-- ==== Sys2Proof/Machine/Blanking.lean ====
section
/-! DEFINITION. The micro-operations of the blank frame and the end of a pass (41_sequencer.md R134 to R136). -/

namespace Sys2Proof.Machine

/-- BLANK_FILL (R134): zero the scratch buffer; gamma is not applied. -/
def execBlankFill (s : State) : Outcome :=
  onLegalPair StepCode.blankFill s <|
    orFault (scratchStore s (List.replicate s.rowBytes 0x00#8)) fun t => .next (t.goStep StepCode.encodeBuf)

/-- PASS_DELAY (R135): enabled when `DLY_CNT = 0`. -/
def execPassDelay (s : State) : Outcome :=
  onLegalPair StepCode.passDelay s <|
    if s.dlyCnt = 0#16 then .next ((emit (.delayDone s.passDelayMs) s).goStep StepCode.passEnd) else hold s

/-- PASS_END (R136): count the completed pass; the subtraction is 32-bit two's complement (R141, log 12). -/
def execPassEnd (s : State) : Outcome :=
  onLegalPair StepCode.passEnd s <|
    if repeatsPositive (s.repeats - 1#32) then
      .next ({ s with repeats := s.repeats - 1#32, row := 0#16 }.goto .running StepCode.loadRow)
    else .next ({ s with repeats := s.repeats - 1#32, row := 0#16 }.goto .terminated StepCode.halt)

end Sys2Proof.Machine
end

