-- ==== Sys2Proof/Machine/Flags.lean ====
section
/-! DEFINITION. The flags and the two assembled views of the host port: BUSY, DONE, FAIL (10_state.md R45), `STATUS` (R41)
and `CTRL` as read (R42). None is state of its own. -/

namespace Sys2Proof.Machine

/-- The 3-bit `STATE` code (10_state.md R21). -/
def Phase.code : Phase → BitVec 3
  | .idle => 0#3
  | .configuring => 1#3
  | .running => 2#3
  | .blanking => 3#3
  | .terminated => 4#3
  | .failed => 5#3
  | .reserved6 => 6#3
  | .reserved7 => 7#3

/-- The 4-bit `ERR` code (60_exceptions.md R201). -/
def ErrCode.code : ErrCode → BitVec 4
  | .none => 0#4
  | .geometry => 1#4
  | .capacity => 2#4
  | .truncated => 3#4
  | .configure => 4#4
  | .initTransport => 5#4
  | .rowPayload => 6#4
  | .rowLatch => 7#4
  | .blankPayload => 8#4
  | .blankLatch => 9#4
  | .reserved k => BitVec.ofNat 4 (10 + k.val)

/-- The codes 10..15, never produced (R201). -/
def ErrCode.isReserved : ErrCode → Bool
  | .reserved _ => true
  | _ => false

/-- BUSY: 1 iff `STATE` is `CONFIGURING`, `RUNNING` or `BLANKING` (R41). -/
def State.busy (s : State) : Bool := s.state == .configuring || s.state == .running || s.state == .blanking

/-- DONE: 1 iff `STATE = TERMINATED` (R41). -/
def State.done (s : State) : Bool := s.state == .terminated

/-- FAIL: 1 iff `STATE = FAILED` (R41). -/
def State.fail (s : State) : Bool := s.state == .failed

/-- `STATUS` (R41): from bit 31 down, 12 reserved bits, STEP, 3 reserved bits, FS_OVF, ERR, 2 reserved bits, FAIL, DONE,
BUSY, STATE. -/
def State.statusWord (s : State) : Word :=
  0#12 ++ s.stepCode ++ 0#3 ++ BitVec.ofBool s.fsOvf ++ s.err.code ++ 0#2 ++ BitVec.ofBool s.fail
    ++ BitVec.ofBool s.done ++ BitVec.ofBool s.busy ++ s.state.code

/-- `CTRL` as read: GAMMA_EN in bit 2, all else 0 (R42). -/
def State.ctrlWord (s : State) : Word := 0#29 ++ BitVec.ofBool s.gammaEn ++ 0#2

end Sys2Proof.Machine
end

