-- ==== Sys2Proof/Machine/Halting.lean ====
section
/-! DEFINITION. HALT and the reserved `STEP` code (41_sequencer.md R137, R138). -/

namespace Sys2Proof.Machine

/-- HALT (R137): never enabled; only reset leaves it. An `ERR` code 10..15 found here is a fault (I8, log 10). -/
def execHalt (s : State) : Outcome :=
  onLegalPair StepCode.halt s <| if s.err.isReserved then .fault .reservedErr else hold s

/-- STEP_RSVD (R138): a model that finds it must fault, whatever the state. -/
def execStepRsvd (_ : State) : Outcome := .fault .reservedStep

end Sys2Proof.Machine
end

