-- ==== Sys2Proof/Machine/Operands.lean ====
section
/-! DEFINITION. Operand assembly of the host port (30_encoding.md R76, R78): the field a write takes from `data`, and the
32 bits a read returns. Bits outside a field are ignored on a write and 0 on a read. -/

namespace Sys2Proof.Machine

/-- `data[15:0]`. -/
def halfOperand (data : Word) : Half := data.extractLsb' 0 16

/-- `data[7:0]`. -/
def byteOperand (data : Word) : BitVec 8 := data.extractLsb' 0 8

/-- `data[31:0]`. -/
def wordOperand (data : Word) : Word := data

/-- `CTRL[0]`, START (10_state.md R42). -/
def ctrlStart (data : Word) : Bool := data.getLsbD 0

/-- `CTRL[1]`, FS_RESET (R42). -/
def ctrlFsReset (data : Word) : Bool := data.getLsbD 1

/-- `CTRL[2]`, GAMMA_EN (R42). -/
def ctrlGammaEn (data : Word) : Bool := data.getLsbD 2

/-- `zext_32` of a field (R76). -/
def zext32 {n : Nat} (v : BitVec n) : Word := v.setWidth 32

end Sys2Proof.Machine
end

