-- ==== Sys2Proof/Machine/HostRead.lean ====
section
/-! DEFINITION. The host port's reads (42_host_interface.md R163 to R186). A read returns its value in every state and
changes nothing (R160, R161). -/

namespace Sys2Proof.Machine

/-- RD_CTRL (R163). -/
def execRdCtrl (s : State) : Outcome := .next (hostReturn s.ctrlWord s)

/-- RD_STATUS (R164). -/
def execRdStatus (s : State) : Outcome := .next (hostReturn s.statusWord s)

/-- RD_REPEATS (R167): the live counter's bit pattern. -/
def execRdRepeats (s : State) : Outcome := .next (hostReturn s.repeats s)

/-- RD_WIDTH (R169). -/
def execRdWidth (s : State) : Outcome := .next (hostReturn (zext32 s.width) s)

/-- RD_HEIGHT (R171). -/
def execRdHeight (s : State) : Outcome := .next (hostReturn (zext32 s.height) s)

/-- RD_CHANNEL (R173). -/
def execRdChannel (s : State) : Outcome := .next (hostReturn (zext32 s.channel) s)

/-- RD_CLOCK_HZ (R175). -/
def execRdClockHz (s : State) : Outcome := .next (hostReturn s.clockHz s)

/-- RD_ROW_DELAY_MS (R177). -/
def execRdRowDelayMs (s : State) : Outcome := .next (hostReturn (zext32 s.rowDelayMs) s)

/-- RD_PASS_DELAY_MS (R179). -/
def execRdPassDelayMs (s : State) : Outcome := .next (hostReturn (zext32 s.passDelayMs) s)

/-- RD_ROW (R180). -/
def execRdRow (s : State) : Outcome := .next (hostReturn (zext32 s.row) s)

/-- RD_FS_PTR (R182). -/
def execRdFsPtr (s : State) : Outcome := .next (hostReturn s.fsPtr s)

/-- RD_FS_DATA (R185): a write-only port reads 0. -/
def execRdFsData (s : State) : Outcome := .next (hostReturn 0#32 s)

/-- RD_RSVD_12_15 (R186). -/
def execRdRsvd12to15 (_ : HostIndex) (s : State) : Outcome := .next (hostReturn 0#32 s)

/-- RD_RSVD_16_31 (R186). -/
def execRdRsvd16to31 (_ : HostIndex) (s : State) : Outcome := .next (hostReturn 0#32 s)

/-- RD_RSVD_32_63 (R186). -/
def execRdRsvd32to63 (_ : HostIndex) (s : State) : Outcome := .next (hostReturn 0#32 s)

end Sys2Proof.Machine
end

