-- ==== Sys2Proof/Machine/HostWrite.lean ====
section
/-! DEFINITION. The host port's writes (42_host_interface.md R162 to R187). Nine have their effect in `IDLE` only (R161);
the others have none. -/

namespace Sys2Proof.Machine

/-- `FS_RESET`: rewind the frame-store port (R162). It erases no byte. -/
def fsRewind (s : State) : State := { s with fsPtr := 0#32, fsOvf := false }

/-- WR_CTRL (R162): GAMMA_EN, then FS_RESET, then START, in one step. -/
def execWrCtrl (data : Word) (s : State) : Outcome :=
  .next <| s |> whenIdle fun s =>
    let s1 := { s with gammaEn := ctrlGammaEn data }
    let s2 := if ctrlFsReset data then fsRewind s1 else s1
    if ctrlStart data then s2.goto .configuring StepCode.check else s2

/-- WR_STATUS (R165): read-only. -/
def execWrStatus (_ : Word) (s : State) : Outcome := .next s

/-- WR_REPEATS (R166). -/
def execWrRepeats (data : Word) (s : State) : Outcome :=
  .next <| s |> whenIdle fun s => { s with repeats := wordOperand data }

/-- WR_WIDTH (R168). -/
def execWrWidth (data : Word) (s : State) : Outcome :=
  .next <| s |> whenIdle fun s => { s with width := halfOperand data }

/-- WR_HEIGHT (R170). -/
def execWrHeight (data : Word) (s : State) : Outcome :=
  .next <| s |> whenIdle fun s => { s with height := halfOperand data }

/-- WR_CHANNEL (R172). -/
def execWrChannel (data : Word) (s : State) : Outcome :=
  .next <| s |> whenIdle fun s => { s with channel := byteOperand data }

/-- WR_CLOCK_HZ (R174). -/
def execWrClockHz (data : Word) (s : State) : Outcome :=
  .next <| s |> whenIdle fun s => { s with clockHz := wordOperand data }

/-- WR_ROW_DELAY_MS (R176). -/
def execWrRowDelayMs (data : Word) (s : State) : Outcome :=
  .next <| s |> whenIdle fun s => { s with rowDelayMs := halfOperand data }

/-- WR_PASS_DELAY_MS (R178). -/
def execWrPassDelayMs (data : Word) (s : State) : Outcome :=
  .next <| s |> whenIdle fun s => { s with passDelayMs := halfOperand data }

/-- WR_ROW (R181): read-only. -/
def execWrRow (_ : Word) (s : State) : Outcome := .next s

/-- WR_FS_PTR (R183): read-only. -/
def execWrFsPtr (_ : Word) (s : State) : Outcome := .next s

/-- WR_FS_DATA (R184): the byte at `FS_PTR`, or, with the frame store full, the sticky overflow flag. -/
def execWrFsData (data : Word) (s : State) : Outcome :=
  .next <| s |> whenIdle fun s =>
    if s.fsPtr.toNat < s.cfg.fsBytes then fsAppend (byteOperand data) s else { s with fsOvf := true }

/-- WR_RSVD_12_15 (R187). -/
def execWrRsvd12to15 (_ : HostIndex) (_ : Word) (s : State) : Outcome := .next s

/-- WR_RSVD_16_31 (R187). -/
def execWrRsvd16to31 (_ : HostIndex) (_ : Word) (s : State) : Outcome := .next s

/-- WR_RSVD_32_63 (R187). -/
def execWrRsvd32to63 (_ : HostIndex) (_ : Word) (s : State) : Outcome := .next s

end Sys2Proof.Machine
end

