-- ==== Sys2Proof/Machine/Encoder.lean ====
section
/-! DEFINITION. The protocol encoder's datapath: the pure functions of 40_encoder.md, R101 to R106. The micro-operations of
41_sequencer.md call them. -/

namespace Sys2Proof.Machine

/-- `GAMMA(v)` (R101): the exact value of the source's literal formula. -/
def gamma (v : Byte) : Byte := if v = 0x00#8 then 0x00#8 else 0xFF#8

/-- The gamma stage, which `GAMMA_EN` switches (10_state.md R32). -/
def gammaStage (enabled : Bool) (v : Byte) : Byte := if enabled then gamma v else v

/-- `PACK(v)` (R103). -/
def pack (v : Byte) : Byte := (v >>> 1) ||| Config.marker

/-- `REORDER(t)` (R102) on one triple. -/
def reorder (t : Byte × Byte × Byte) : Byte × Byte × Byte := (t.2.1, t.1, t.2.2)

/-- `REORDER` on every triple of a buffer, at offsets 0, 3, 6, … (R104). A buffer is a whole number of triples (R109);
bytes after the last whole triple would be left alone (log 18). -/
def reorderTriples : List Byte → List Byte
  | t0 :: t1 :: t2 :: rest =>
    (reorder (t0, t1, t2)).1 :: (reorder (t0, t1, t2)).2.1 :: (reorder (t0, t1, t2)).2.2 :: reorderTriples rest
  | short => short

/-- `ENCODE(buf, n)` (R104): reorder every triple, then pack every byte. -/
def encodeBuffer (bs : List Byte) : List Byte := (reorderTriples bs).map pack

/-- `LATCH` (R106): `LATCH_LEN` zero bytes. -/
def latch : List Byte := List.replicate Config.latchLen 0x00#8

end Sys2Proof.Machine
end

