-- ==== Sys2Proof/Machine/Running.lean ====
section
/-! DEFINITION. The micro-operations of one row (41_sequencer.md R128, R132, R133). -/

namespace Sys2Proof.Machine

/-- LOAD_ROW (R128): row `ROW` of the frame store, through the gamma stage, into the scratch buffer. -/
def execLoadRow (s : State) : Outcome :=
  onLegalPair StepCode.loadRow s <|
    orFault (readRange (fsRead s) s.rowBase s.rowBytes) fun bs =>
      orFault (scratchStore s (bs.map (gammaStage s.gammaEn))) fun t => .next (t.goStep StepCode.encodeBuf)

/-- ROW_DELAY (R132): enabled when `DLY_CNT = 0`. -/
def execRowDelay (s : State) : Outcome :=
  onLegalPair StepCode.rowDelay s <|
    if s.dlyCnt = 0#16 then .next ((emit (.delayDone s.rowDelayMs) s).goStep StepCode.rowNext) else hold s

/-- ROW_NEXT (R133). The comparison is exact (R141, log 12). -/
def execRowNext (s : State) : Outcome :=
  onLegalPair StepCode.rowNext s <|
    if s.row.toNat + 1 < s.height.toNat then .next ({ s with row := s.row + 1#16 }.goStep StepCode.loadRow)
    else .next ({ s with row := s.row + 1#16 }.goto .blanking StepCode.blankFill)

end Sys2Proof.Machine
end

