-- ==== Sys2Proof/Machine/Transmit.lean ====
section
/-! DEFINITION. The micro-operations that encode and send the scratch buffer, in `RUNNING` and in `BLANKING`
(41_sequencer.md R129 to R131, 40_encoder.md R107). -/

namespace Sys2Proof.Machine

/-- ENCODE (R129): the scratch buffer in place. -/
def execEncodeBuf (s : State) : Outcome :=
  onLegalPair StepCode.encodeBuf s <|
    orFault (readRange (scratchRead s) 0 s.rowBytes) fun bs =>
      orFault (scratchStore s (encodeBuffer bs)) fun t => .next (t.goStep StepCode.txPayload)

/-- TX_PAYLOAD (R130): the payload, `scratch[0 .. 3*WIDTH)`, as one write. -/
def execTxPayload (s : State) : Outcome :=
  onLegalPair StepCode.txPayload s <|
    orFault (readRange (scratchRead s) 0 s.rowBytes) fun p =>
      transact (.wr s.channel p) (.write s.channel p) (if s.state = .running then .rowPayload else .blankPayload)
        (fun s' => s'.goStep StepCode.txLatch) s

/-- The delay that follows a latch (R131): `DLY_CNT` loaded, `PRESC` cleared (60_exceptions.md R221). -/
def startDelay (s : State) : State :=
  if s.state = .running then { s with dlyCnt := s.rowDelayMs, presc := 0 }.goStep StepCode.rowDelay
  else { s with dlyCnt := s.passDelayMs, presc := 0 }.goStep StepCode.passDelay

/-- TX_LATCH (R131): the latch frame as one write. -/
def execTxLatch (s : State) : Outcome :=
  onLegalPair StepCode.txLatch s <|
    transact (.wr s.channel latch) (.write s.channel latch)
      (if s.state = .running then .rowLatch else .blankLatch) startDelay s

end Sys2Proof.Machine
end

