-- ==== Sys2Proof/Machine/Dispatch.lean ====
section
/-! DEFINITION. One arm per instruction: the meaning it calls. -/

namespace Sys2Proof.Machine

def exec (i : Instr) (s : State) : Host.Outcome State Fault Refusal :=
  match i with
  -- sequencer micro-operations (41_sequencer.md)
  | .waitStart => Sys2Proof.Machine.execWaitStart s
  | .check => Sys2Proof.Machine.execCheck s
  | .configure => Sys2Proof.Machine.execConfigure s
  | .initTransport => Sys2Proof.Machine.execInitTransport s
  | .passTest => Sys2Proof.Machine.execPassTest s
  | .loadRow => Sys2Proof.Machine.execLoadRow s
  | .encodeBuf => Sys2Proof.Machine.execEncodeBuf s
  | .txPayload => Sys2Proof.Machine.execTxPayload s
  | .txLatch => Sys2Proof.Machine.execTxLatch s
  | .rowDelay => Sys2Proof.Machine.execRowDelay s
  | .rowNext => Sys2Proof.Machine.execRowNext s
  | .blankFill => Sys2Proof.Machine.execBlankFill s
  | .passDelay => Sys2Proof.Machine.execPassDelay s
  | .passEnd => Sys2Proof.Machine.execPassEnd s
  | .halt => Sys2Proof.Machine.execHalt s
  | .stepRsvd => Sys2Proof.Machine.execStepRsvd s
  -- host transactions (42_host_interface.md)
  | .rdCtrl => Sys2Proof.Machine.execRdCtrl s
  | .wrCtrl data => Sys2Proof.Machine.execWrCtrl data s
  | .rdStatus => Sys2Proof.Machine.execRdStatus s
  | .wrStatus data => Sys2Proof.Machine.execWrStatus data s
  | .rdRepeats => Sys2Proof.Machine.execRdRepeats s
  | .wrRepeats data => Sys2Proof.Machine.execWrRepeats data s
  | .rdWidth => Sys2Proof.Machine.execRdWidth s
  | .wrWidth data => Sys2Proof.Machine.execWrWidth data s
  | .rdHeight => Sys2Proof.Machine.execRdHeight s
  | .wrHeight data => Sys2Proof.Machine.execWrHeight data s
  | .rdChannel => Sys2Proof.Machine.execRdChannel s
  | .wrChannel data => Sys2Proof.Machine.execWrChannel data s
  | .rdClockHz => Sys2Proof.Machine.execRdClockHz s
  | .wrClockHz data => Sys2Proof.Machine.execWrClockHz data s
  | .rdRowDelayMs => Sys2Proof.Machine.execRdRowDelayMs s
  | .wrRowDelayMs data => Sys2Proof.Machine.execWrRowDelayMs data s
  | .rdPassDelayMs => Sys2Proof.Machine.execRdPassDelayMs s
  | .wrPassDelayMs data => Sys2Proof.Machine.execWrPassDelayMs data s
  | .rdRow => Sys2Proof.Machine.execRdRow s
  | .wrRow data => Sys2Proof.Machine.execWrRow data s
  | .rdFsPtr => Sys2Proof.Machine.execRdFsPtr s
  | .wrFsPtr data => Sys2Proof.Machine.execWrFsPtr data s
  | .rdFsData => Sys2Proof.Machine.execRdFsData s
  | .wrFsData data => Sys2Proof.Machine.execWrFsData data s
  -- reserved indices (R186, R187)
  | .rdRsvd12to15 index => Sys2Proof.Machine.execRdRsvd12to15 index s
  | .rdRsvd16to31 index => Sys2Proof.Machine.execRdRsvd16to31 index s
  | .rdRsvd32to63 index => Sys2Proof.Machine.execRdRsvd32to63 index s
  | .wrRsvd12to15 index data => Sys2Proof.Machine.execWrRsvd12to15 index data s
  | .wrRsvd16to31 index data => Sys2Proof.Machine.execWrRsvd16to31 index data s
  | .wrRsvd32to63 index data => Sys2Proof.Machine.execWrRsvd32to63 index data s

end Sys2Proof.Machine
end

