-- ==== Sys2Proof/Machine/Turns.lean ====
section
/-! DEFINITION. One step of each agent (00_scope.md R6), and where a program is placed. -/

namespace Sys2Proof.Machine

/-- The sequencer's step: fetch `STEP`, decode it, run it (41_sequencer.md R121). -/
def sequencerTurn (s : State) : Outcome := exec (decodeStep s.stepCode) s.endRead

/-- An answer to an abandoned request is ignored, whatever the sequencer does, also while a new request is presented
(70_reset_and_hazards.md R232). It runs no micro-operation, so it raises no fault of an illegal pair either (log 9). -/
def ignoreAnswer (s : State) : Outcome := .next s.endRead

/-- The transport's answer to the request of the current micro-operation enables it; it takes the answer as its input and
runs (41_sequencer.md R121), and faults where it finds an illegal pair. Where `STEP` is no transport step there is no
request to answer, and the answer is ignored (log 4); DESIGN CHOICE, log 9: also at `STEP` = 0xF or at another illegal
pair. -/
def transportTurn (a : Answer) (s : State) : Outcome :=
  if isTransportStep s.stepCode then exec (decodeStep s.stepCode) { s.endRead with txAnswer := some a }
  else ignoreAnswer s

/-- A host transaction: decode the host word, run it (42_host_interface.md R160). -/
def hostTurn (w : HostWord) (s : State) : Outcome := exec (decodeHost w) s.endRead

/-- One step of one agent. An accepted byte is seen by the transport alone (20_memory.md R59); a tick and a clock cycle have
no effect but the delay timer's (60_exceptions.md R220). DESIGN CHOICE, log 9: of these turns only those that run a
micro-operation fault at an illegal pair. -/
def runTurn (t : Turn) (s : State) : Outcome :=
  match t with
  | .sequencer => sequencerTurn s
  | .transport a => transportTurn a s
  | .abandoned _ => ignoreAnswer s
  | .txDataReady => .next (acceptByte s)
  | .host w => hostTurn w s
  | .tick => .next (tick s)
  | .cycle => .next (clockCycle s)
  | .reset => .next (resetAction s)

/-! ## Placing an instruction (log 14) -/

/-- The turn that runs a micro-operation: one that waits for the transport runs when it answers. -/
def turnOf (c : MicroCode) : Turn := if isTransportStep c then .transport .ok else .sequencer

/-- The sequencer at `STEP` code `c`, in its own `STATE` if the code may stand there, else in the first state in which
it may (30_encoding.md R73); its turn is next. -/
def placeMicroOp (c : MicroCode) (s : State) : State :=
  { s with
    stepCode := c
    state := if s.state ∈ legalPhases c then s.state else (legalPhases c).headD s.state
    agenda := turnOf c :: s.agenda }

/-- A host word as the host's next transaction. -/
def placeHostWord (w : HostWord) (s : State) : State := { s with agenda := .host w :: s.agenda }

/-- The code that a table word stands for, where step finds its next instruction. -/
def placeWord (nbits w : Nat) (s : State) : State :=
  if nbits ≤ 32 then placeMicroOp (BitVec.ofNat 4 w) s else placeHostWord (BitVec.ofNat 39 w) s

end Sys2Proof.Machine
end

