-- ==== Sys2Proof/Machine/Step.lean ====
section
/-! DEFINITION. One step of the machine: the next agent takes its turn (20_memory.md R62). -/

namespace Sys2Proof.Machine

/-- The next turn of the agenda, run in the state without it (log 2). -/
def step (s : State) : Host.Outcome State Fault Refusal := runTurn s.nextTurn s.dropTurn

/-- The state whose next step runs the instruction of a table word (log 14). -/
def State.withFetchWord (s : State) (nbits w : Nat) : State := placeWord nbits w s

end Sys2Proof.Machine
end

