-- ==== Sys2Proof/Machine/Signals.lean ====
section
/-! DEFINITION. The block's external signals (10_state.md R48) as views of the state, the order of the steps that one clock
edge presents together (60_exceptions.md R204), the output byte stream (20_memory.md R55, R56), and a run's outcome
(60_exceptions.md R206). -/

namespace Sys2Proof.Machine

/-! ## Outputs (R48) -/

/-- `tx_req`. -/
def State.txReq (s : State) : Bool := s.txPending.isSome

/-- `tx_kind`: 0 = `CFG`, 1 = `INIT`, 2 = `WR`. -/
def Request.kind : Request → BitVec 2
  | .cfg _ _ => 0#2
  | .init => 1#2
  | .wr _ _ => 2#2

/-- `tx_channel`, of `CFG` and `WR`; no value for `INIT` (log 20). -/
def Request.channel : Request → Option (BitVec 8)
  | .cfg c _ => some c
  | .init => none
  | .wr c _ => some c

/-- `tx_clock_hz`, of `CFG`; no value for the others (log 20). -/
def Request.clockHz : Request → Option Word
  | .cfg _ f => some f
  | .init => none
  | .wr _ _ => none

/-- `tx_len`, the byte count of `WR`; R48 gives it no value for the other requests, and the model none (log 20). -/
def Request.len : Request → Option (BitVec 18)
  | .cfg _ _ => none
  | .init => none
  | .wr _ bs => some (BitVec.ofNat 18 bs.length)

/-- `tx_data_valid`: a byte of the pending `WR` is presented, the one that `State.txData` gives (log 16). -/
def State.txDataValid (s : State) : Bool := s.txData.isSome

/-! ## Inputs at one clock edge (R48) -/

/-- The input signals at a rising edge of `clk`. -/
structure Pins where
  rst : Bool
  hostValid : Bool
  hostWe : Bool
  hostAddr : HostIndex
  hostWdata : Word
  txDataReady : Bool
  txDone : Bool
  txErr : Bool
  deriving DecidableEq, Repr

/-- The answer the pins carry: `tx_done` with `tx_err` = 1 means `Err` (R48). -/
def Pins.answer (p : Pins) : Option Answer :=
  if p.txDone then some (if p.txErr then .err else .ok) else none

/-- A rising edge of `clk`: the input signals, and what no pin shows (log 17). -/
structure Edge where
  pins : Pins
  /-- how many steps the sequencer takes at this edge without an answer: any number, none too, since no source gives
  micro-operations cycle counts and a model gives them none (70_reset_and_hazards.md R243, 60_exceptions.md R224) -/
  steps : Nat
  /-- a `tx_done` at this edge answers a request that reset abandoned (70_reset_and_hazards.md R232) -/
  late : Bool
  deriving DecidableEq, Repr

/-- The transport's step at a clock edge. `tx_done` answers the request that is presented, and is then the step of the
micro-operation that waits for it (41_sequencer.md R121). It is ignored if it answers an abandoned request
(70_reset_and_hazards.md R232), if no request is presented, or if reset comes first (log 17). -/
def State.answerEdge (s : State) (e : Edge) : List Turn :=
  match e.pins.answer with
  | some a => if s.txReq && !e.pins.rst && !e.late then [.transport a] else [.abandoned a]
  | none => []

/-- The steps that one clock edge presents together, in the order of 60_exceptions.md R204 (4): reset, the sequencer (the
answered micro-operation first), the host transaction, the timer. The byte handshake, which R204 does not name, comes
before the sequencer's steps (log 17). -/
def State.edgeTurns (s : State) (e : Edge) : List Turn :=
  (if e.pins.rst then [.reset] else [])
  ++ (if e.pins.txDataReady then [.txDataReady] else [])
  ++ s.answerEdge e
  ++ List.replicate e.steps .sequencer
  ++ (if e.pins.hostValid then [.host (hostWord e.pins.hostWe e.pins.hostAddr e.pins.hostWdata)] else [])
  ++ [.cycle]

/-- The machine at a clock edge: the cycle after an earlier read is over (R48, log 5), and the edge's steps come next. -/
def State.presentEdge (s : State) (e : Edge) : State := { s.endRead with agenda := s.edgeTurns e ++ s.agenda }

/-! ## Output byte stream -/

/-- The bytes an event put on the output stream, for a write the transport took whole (R55); of a failed write it is not
known which part reached the strip (I6). -/
def Event.outputBytes : Event → List Byte
  | .write _ bs .ok => bs
  | .write _ _ .err => []
  | .configure _ _ _ => []
  | .initTransport _ => []
  | .delayDone _ => []

/-- The output byte stream of the writes answered `Ok` (R50, R55). -/
def State.outputStream (s : State) : List Byte := s.history.flatMap Event.outputBytes

/-- The bits of a byte in the order the wire carries them (R56). -/
def wireBits (o : Config.WireBitOrder) (b : Byte) : List Bool :=
  let lsb := (List.range 8).map b.getLsbD
  match o with
  | .lsbFirst => lsb
  | .msbFirst => lsb.reverse

/-- The output stream as bits, in this machine's wire order. -/
def State.wireStream (s : State) : List Bool := s.outputStream.flatMap (wireBits s.cfg.wireBitOrder)

/-! ## Outcome of a run -/

/-- The exit status that the source gives a run's end (R206); none while it is in progress. -/
def State.exitStatus (s : State) : Option Nat :=
  match s.state with
  | .terminated => some 0
  | .failed => some 1
  | .idle | .configuring | .running | .blanking | .reserved6 | .reserved7 => none

end Sys2Proof.Machine
end

