-- ==== Sys2Proof/Safety.lean ====
section
/-! DEFINITION. What a run of LEDSEQ that follows the rules keeps true: the invariants of 10_state.md R47, the storage facts
derived in 41_sequencer.md R128 and R129, and the order of the transport's requests (R139, 40_encoder.md R107). -/

namespace Sys2Proof.Machine

/-! ## Classes of instructions -/

/-- A host read (42_host_interface.md R160). -/
def isHostRead : Instr → Bool
  | .rdCtrl | .rdStatus | .rdRepeats | .rdWidth | .rdHeight | .rdChannel | .rdClockHz | .rdRowDelayMs
  | .rdPassDelayMs | .rdRow | .rdFsPtr | .rdFsData => true
  | .rdRsvd12to15 _ | .rdRsvd16to31 _ | .rdRsvd32to63 _ => true
  | _ => false

/-- A write that the configuration lock holds outside `IDLE` (42_host_interface.md R161). -/
def isLockedWrite : Instr → Bool
  | .wrCtrl _ | .wrRepeats _ | .wrWidth _ | .wrHeight _ | .wrChannel _ | .wrClockHz _ | .wrRowDelayMs _
  | .wrPassDelayMs _ | .wrFsData _ => true
  | _ => false

/-- A write with no effect in any state: of a read-only register or a reserved index (30_encoding.md R77, R78). -/
def isInertWrite : Instr → Bool
  | .wrStatus _ | .wrRow _ | .wrFsPtr _ => true
  | .wrRsvd12to15 _ _ | .wrRsvd16to31 _ _ | .wrRsvd32to63 _ _ => true
  | _ => false

/-! ## The invariants of R47 -/

/-- The geometry that CHECK has established (41_sequencer.md R123): `1 ≤ WIDTH ≤ MAX_LEDS`, `HEIGHT ≥ 1`,
`3 * WIDTH * HEIGHT ≤ FS_PTR`. -/
structure State.GeometryChecked (s : State) : Prop where
  width_pos : 1 ≤ s.width.toNat
  width_le : s.width.toNat ≤ s.cfg.maxLeds
  height_pos : 1 ≤ s.height.toNat
  image_loaded : s.imageBytes ≤ s.fsPtr.toNat

/-- The invariants of R47 that speak of one state: items 1 to 5 and 7. Item 6 speaks of a step. -/
structure State.R47 (s : State) : Prop where
  /-- item 1 -/
  fsPtr_le : s.fsPtr.toNat ≤ s.cfg.fsBytes
  /-- item 2 -/
  checked : s.state = .running ∨ s.state = .blanking → s.GeometryChecked ∧ 1 ≤ s.repeats.toInt
  /-- item 3 -/
  row_running : s.state = .running → s.row.toNat < s.height.toNat
  /-- item 3 -/
  row_blanking : s.state = .blanking → s.row = s.height
  /-- item 4 -/
  err_iff : s.err ≠ .none ↔ s.state = .failed
  /-- item 5 -/
  pair_legal : s.state ∈ legalPhases s.stepCode
  /-- item 7 -/
  no_delay : isDelayStep s.stepCode = false → s.dlyCnt = 0#16

/-! ## The invariants that make R47 inductive, and those of storage and interface -/

/-- The request of the current micro-operation (41_sequencer.md R124, R125, R130, R131), for a payload the bytes of the
scratch buffer. -/
def State.RequestOfStep (s : State) : Request → Prop
  | .cfg c f => s.stepCode = StepCode.configure ∧ c = s.channel ∧ f = s.clockHz
  | .init => s.stepCode = StepCode.initTransport
  | .wr c bs =>
    c = s.channel ∧
      ((s.stepCode = StepCode.txPayload ∧ readRange (scratchRead s) 0 s.rowBytes = .ok bs)
        ∨ (s.stepCode = StepCode.txLatch ∧ bs = latch))

/-- The rest of what every reachable state satisfies. -/
structure State.Wired (s : State) : Prop where
  /-- the parameters are within the bounds of 00_scope.md R7 -/
  params : s.cfg.legal
  /-- after CHECK and before the first pass the geometry is checked (41_sequencer.md R123) -/
  checked_early : s.stepCode = StepCode.configure ∨ s.stepCode = StepCode.initTransport
    ∨ s.stepCode = StepCode.passTest → s.GeometryChecked
  /-- `ROW` is 0 before the first pass and after the last (10_state.md R24) -/
  row_zero : s.state = .idle ∨ s.state = .configuring ∨ s.state = .terminated → s.row = 0#16
  /-- an `ERR` code 10..15 is never produced (60_exceptions.md R201) -/
  err_known : s.err.isReserved = false
  /-- `PRESC` counts 0..`CYCLES_PER_MS`-1 (10_state.md R27) -/
  presc_lt : s.presc < s.cfg.cyclesPerMs
  /-- both storages keep their canonical form -/
  fs_wf : s.fs.wf
  scratch_wf : s.scratch.wf
  /-- every byte below `FS_PTR` has been written (42_host_interface.md R184) -/
  fs_written : ∀ a, a < s.fsPtr.toNat → (s.fs.read a).isSome
  /-- no byte stands outside the storage that exists (10_state.md R39, R40) -/
  fs_inside : ∀ c ∈ s.fs, c.1 < s.cfg.fsBytes
  scratch_inside : ∀ c ∈ s.scratch, c.1 < 3 * s.cfg.maxLeds
  /-- what ENCODE and TX_PAYLOAD read has been written in the same frame (41_sequencer.md R129) -/
  scratch_written : s.stepCode = StepCode.encodeBuf ∨ s.stepCode = StepCode.txPayload →
    ∀ j, j < s.rowBytes → (s.scratch.read j).isSome
  /-- a pending request is the one of the current micro-operation (10_state.md R46), and the transport has accepted no
  more bytes than it has (R48) -/
  pending_current : ∀ p, s.txPending = some p → s.RequestOfStep p.request ∧ p.sent ≤ p.request.data.length
  /-- an answer is taken in the step it arrives in (41_sequencer.md R121) -/
  no_answer : s.txAnswer = none

/-- The invariant of the machine. -/
structure State.Inv (s : State) : Prop where
  r47 : s.R47
  wired : s.Wired

/-! ## What the scratch buffer holds -/

/-- The bytes of row `r` of the image, through the gamma stage (20_memory.md R54, 41_sequencer.md R128). -/
def State.rowImage (s : State) (r : Nat) : List (Option Byte) :=
  (List.range s.rowBytes).map fun j => (s.fs.read (r * s.rowBytes + j)).map (gammaStage s.gammaEn)

/-- The first `3 * WIDTH` bytes of the scratch buffer. -/
def State.scratchImage (s : State) : List (Option Byte) := (List.range s.rowBytes).map s.scratch.read

/-- The frame being sent: the current row in `RUNNING`, the blank frame in `BLANKING` (R128, R134). -/
def State.FrameIs (s : State) (frame : List Byte) : Prop :=
  (s.state = .running ∧ s.rowImage s.row.toNat = frame.map some)
    ∨ (s.state = .blanking ∧ frame = List.replicate s.rowBytes 0x00#8)

/-- At ENCODE the scratch buffer holds the frame, at TX_PAYLOAD and TX_LATCH its encoding (R128 to R130, R134). -/
def State.ScratchHolds (s : State) : Prop :=
  (s.stepCode = StepCode.encodeBuf → ∃ frame, s.FrameIs frame ∧ s.scratchImage = frame.map some)
  ∧ (s.stepCode = StepCode.txPayload ∨ s.stepCode = StepCode.txLatch →
      ∃ frame, s.FrameIs frame ∧ s.scratchImage = (encodeBuffer frame).map some)

/-! ## The order of the requests -/

/-- Where a history stands in the transmit protocol (40_encoder.md R107, 41_sequencer.md R120, R139). -/
inductive Protocol where
  /-- no request yet -/
  | start
  /-- `CFG` answered `Ok` -/
  | configured
  /-- `INIT` answered `Ok`, or the last frame's delay is over: the next request is a payload write -/
  | ready
  /-- a payload write to `channel` answered `Ok`: the next request is its latch -/
  | owesLatch (channel : BitVec 8)
  /-- the latch answered `Ok`: its delay comes next -/
  | owesDelay
  /-- a request answered `Err`: no event follows -/
  | dead
  deriving DecidableEq, Repr

/-- A payload: a whole number of triples, at least one, of bytes that carry the marker (40_encoder.md R108, R109). -/
def isPayload (bs : List Byte) : Bool :=
  decide (bs ≠ []) && decide (bs.length % 3 = 0) && bs.all fun b => decide (0x80 ≤ b.toNat)

/-- The protocol after one more event; none if the event is out of order. -/
def Protocol.next (p : Protocol) (e : Event) : Option Protocol :=
  match p with
  | .start =>
    match e with
    | .configure _ _ ans => some (if ans = .ok then .configured else .dead)
    | _ => none
  | .configured =>
    match e with
    | .initTransport ans => some (if ans = .ok then .ready else .dead)
    | _ => none
  | .ready =>
    match e with
    | .write c bs ans => if isPayload bs then some (if ans = .ok then .owesLatch c else .dead) else none
    | _ => none
  | .owesLatch c =>
    match e with
    | .write c' bs ans => if c' = c ∧ bs = latch then some (if ans = .ok then .owesDelay else .dead) else none
    | _ => none
  | .owesDelay =>
    match e with
    | .delayDone _ => some .ready
    | _ => none
  | .dead => none

/-- The protocol after a whole history, from `p`. -/
def Protocol.after (p : Protocol) : List Event → Option Protocol
  | [] => some p
  | e :: es =>
    match p.next e with
    | some q => Protocol.after q es
    | none => none

/-- Where the protocol stands when the sequencer is at its current micro-operation. -/
def State.ProtocolAt (s : State) (p : Protocol) : Prop :=
  match s.state with
  | .idle => p = .start
  | .configuring =>
    if s.stepCode = StepCode.check ∨ s.stepCode = StepCode.configure then p = .start
    else if s.stepCode = StepCode.initTransport then p = .configured
    else p = .ready
  | .running | .blanking =>
    if s.stepCode = StepCode.txLatch then p = .owesLatch s.channel
    else if isDelayStep s.stepCode then p = .owesDelay
    else p = .ready
  | .terminated => p = .ready
  | .failed => p = .start ∨ p = .dead
  | .reserved6 | .reserved7 => False

/-- The history follows the protocol and stands where the sequencer is. -/
def State.InProtocol (s : State) : Prop :=
  ∃ p, Protocol.after .start s.history = some p ∧ s.ProtocolAt p

/-! ## Control transfer -/

/-- An edge of the transition table (41_sequencer.md R120), reset apart. -/
def isEdge (p : Phase) (c : MicroCode) (p' : Phase) (c' : MicroCode) : Bool :=
  (p, c, p', c') ∈
    [(Phase.idle, StepCode.waitStart, Phase.configuring, StepCode.check),
     (.configuring, StepCode.check, .configuring, StepCode.configure),
     (.configuring, StepCode.check, .failed, StepCode.halt),
     (.configuring, StepCode.configure, .configuring, StepCode.initTransport),
     (.configuring, StepCode.configure, .failed, StepCode.halt),
     (.configuring, StepCode.initTransport, .configuring, StepCode.passTest),
     (.configuring, StepCode.initTransport, .failed, StepCode.halt),
     (.configuring, StepCode.passTest, .running, StepCode.loadRow),
     (.configuring, StepCode.passTest, .terminated, StepCode.halt),
     (.running, StepCode.loadRow, .running, StepCode.encodeBuf),
     (.running, StepCode.encodeBuf, .running, StepCode.txPayload),
     (.running, StepCode.txPayload, .running, StepCode.txLatch),
     (.running, StepCode.txPayload, .failed, StepCode.halt),
     (.running, StepCode.txLatch, .running, StepCode.rowDelay),
     (.running, StepCode.txLatch, .failed, StepCode.halt),
     (.running, StepCode.rowDelay, .running, StepCode.rowNext),
     (.running, StepCode.rowNext, .running, StepCode.loadRow),
     (.running, StepCode.rowNext, .blanking, StepCode.blankFill),
     (.blanking, StepCode.blankFill, .blanking, StepCode.encodeBuf),
     (.blanking, StepCode.encodeBuf, .blanking, StepCode.txPayload),
     (.blanking, StepCode.txPayload, .blanking, StepCode.txLatch),
     (.blanking, StepCode.txPayload, .failed, StepCode.halt),
     (.blanking, StepCode.txLatch, .blanking, StepCode.passDelay),
     (.blanking, StepCode.txLatch, .failed, StepCode.halt),
     (.blanking, StepCode.passDelay, .blanking, StepCode.passEnd),
     (.blanking, StepCode.passEnd, .running, StepCode.loadRow),
     (.blanking, StepCode.passEnd, .terminated, StepCode.halt)]

/-! ## Whole runs (41_sequencer.md R139, R140) -/

/-- The turns of one frame: it is put in the scratch buffer and encoded, its payload and latch are answered `Ok`, its
delay of `ms` ticks passes, and the sequencer goes on. -/
def frameTurns (ms : Half) : List Turn :=
  [.sequencer, .sequencer, .transport .ok, .transport .ok] ++ List.replicate ms.toNat .tick ++ [.sequencer, .sequencer]

/-- The turns of one pass: its rows and its blank frame. -/
def passTurns (s : State) : List Turn :=
  (List.replicate s.height.toNat (frameTurns s.rowDelayMs)).flatten ++ frameTurns s.passDelayMs

/-- The history of one pass over rows that encode `frames` (R139). -/
def passHistory (s : State) (frames : List (List Byte)) : List Event :=
  (frames.flatMap fun f =>
    [Event.write s.channel (encodeBuffer f) .ok, .write s.channel [0#8, 0#8, 0#8] .ok, .delayDone s.rowDelayMs])
  ++ [.write s.channel (List.replicate (3 * s.width.toNat) 0x80#8) .ok, .write s.channel [0#8, 0#8, 0#8] .ok,
      .delayDone s.passDelayMs]

/-- The rows of the image, through the gamma stage. -/
def State.FramesAre (s : State) (frames : List (List Byte)) : Prop :=
  frames.length = s.height.toNat ∧ ∀ r, (h : r < frames.length) → s.rowImage r = frames[r].map some

end Sys2Proof.Machine
end

