-- ==== Sys2Proof/Certificates/Slice0/Obligations.lean ====
section
/-! DEFINITION. The statements about LEDSEQ that the provers settle. Each docstring names the rule of spec/ it formalises.

A clause of the form `t = { s with f := t.f, … }` is the frame: t agrees with s in every field but those it names. -/

open Sys2Proof Sys2Proof.Machine

/-! ## Encoding (30_encoding.md) -/

/-- Decoding the code of a well-formed instruction gives it back, with every operand (R71, R74, R75). -/
def Obligations.DecodeOfEncodeIsTheInstruction : Prop :=
  ∀ i : Instr, i.wf = true → decode (encode i) = i

/-- R74, R71: every code decodes to a well-formed instruction, and encoding that gives the code back, but that the data
of a read are 0 in its encoding. -/
def Obligations.EncodeOfDecodeIsTheWord : Prop :=
  (∀ c : MicroCode, (decodeStep c).wf = true ∧ encode (decodeStep c) = .step c)
  ∧ ∀ w : HostWord, (decodeHost w).wf = true
    ∧ (w.getLsbD 38 = true → encode (decodeHost w) = .host w)
    ∧ (w.getLsbD 38 = false → encode (decodeHost w) = .host (BitVec.ofNat 39 (w.toNat / 2 ^ 32 * 2 ^ 32)))

/-- R80: every host word is selected by exactly one row of the opcode table, the row of the instruction it decodes to;
likewise every `STEP` code. -/
def Obligations.EveryCodeHasExactlyOneRow : Prop :=
  (∀ w : HostWord, (hostRows.filter fun r => r.selects w.toNat).map (·.mnemonic) = [(decodeHost w).mnemonic])
  ∧ ∀ c : MicroCode, (stepRows.filter fun r => r.selects c.toNat).map (·.mnemonic) = [(decodeStep c).mnemonic]

/-- Words that 42_host_interface.md, 95_test_vectors.md and 30_encoding.md R71 write out decode to the instructions they
are written for. -/
def Obligations.WrittenWordsDecode : Prop :=
  decodeHost 0x4000000005#39 = .wrCtrl 5#32
  ∧ decodeHost 0x0100000000#39 = .rdStatus
  ∧ decodeHost 0x42FFFFFFFF#39 = .wrRepeats 0xFFFFFFFF#32
  ∧ decodeHost 0x4300000002#39 = .wrWidth 2#32
  ∧ decodeHost 0x46003D0900#39 = .wrClockHz 4000000#32
  ∧ decodeHost 0x4B000001A5#39 = .wrFsData 0x1A5#32
  ∧ decodeHost 0x0C00000000#39 = .rdRsvd12to15 12#6
  ∧ decodeHost 0x7F00000001#39 = .wrRsvd32to63 63#6 1#32
  ∧ decodeStep 0x8#4 = .txLatch
  ∧ decodeStep 0xE#4 = .halt

/-! ## A step runs the decoded instruction -/

/-- One step takes the next turn off the agenda. The sequencer's turn runs the instruction that `STEP` decodes to; the
transport's answer runs it with the answer, if it is one that waits for an answer, and is ignored otherwise; an answer to
an abandoned request is always ignored; a host turn runs the instruction its word decodes to. All four end the validity of
read data. An accepted byte moves the stream of the pending request alone, a tick and a clock cycle move the delay timer
alone, and reset resets. (The model's own choices here: the agenda, log 2; that the answer is a turn of its own, log 4; which
turns end the validity of read data, log 5; that an ignored answer, or another turn that runs no micro-operation, answers a
next state also at `STEP` = 0xF and at the other illegal pairs, where R138 and R73 ask a model to fault, log 9; that the tick
and the clock cycle are two kinds of turn, log 11; that `tx_data_ready` is a turn, log 16. The rules are R48, R121, R160,
R220, R223, R230, R232.) -/
def Obligations.StepRunsTheDecodedInstruction : Prop :=
  ∀ s : State, let u := { s with agenda := s.agenda.tail }
    (s.agenda.headD .sequencer = .sequencer →
      step s = exec (decode (.step s.stepCode)) { u with hostRdata := none })
    ∧ (∀ a, s.agenda.headD .sequencer = .transport a →
        (s.stepCode ∈ [0x2#4, 0x3#4, 0x7#4, 0x8#4] →
          step s = exec (decode (.step s.stepCode)) { u with hostRdata := none, txAnswer := some a })
        ∧ (s.stepCode ∉ [0x2#4, 0x3#4, 0x7#4, 0x8#4] → step s = .next { u with hostRdata := none }))
    ∧ (∀ a, s.agenda.headD .sequencer = .abandoned a → step s = .next { u with hostRdata := none })
    ∧ (s.agenda.headD .sequencer = .txDataReady → step s = .next (acceptByte u))
    ∧ (∀ w, s.agenda.headD .sequencer = .host w → step s = exec (decode (.host w)) { u with hostRdata := none })
    ∧ (s.agenda.headD .sequencer = .tick → step s = .next (tick u))
    ∧ (s.agenda.headD .sequencer = .cycle → step s = .next (clockCycle u))
    ∧ (s.agenda.headD .sequencer = .reset → step s = .next (resetAction u))

/-! ## Reset (70_reset_and_hazards.md) -/

/-- R231: the values of every field after reset; no byte of the frame store or of the scratch buffer has a value. -/
def Obligations.ResetValues : Prop :=
  let s := State.reset
  s.state = .idle ∧ s.stepCode = 0x0#4 ∧ s.repeats = 0#32 ∧ s.row = 0#16 ∧ s.err = .none ∧ s.dlyCnt = 0#16
  ∧ s.presc = 0 ∧ s.width = 0#16 ∧ s.height = 0#16 ∧ s.channel = 0#8 ∧ s.clockHz = 8000000#32
  ∧ s.rowDelayMs = 1#16 ∧ s.passDelayMs = 500#16 ∧ s.gammaEn = false ∧ s.fsPtr = 0#32 ∧ s.fsOvf = false
  ∧ (∀ a b, fsRead s a ≠ .ok b) ∧ (∀ a b, scratchRead s a ≠ .ok b) ∧ s.txPending = none
  ∧ s.statusWord = 0#32 ∧ s.ctrlWord = 0#32

/-- R230, R233: a reset turn sets every field to its reset value, drops the pending request and starts an empty history;
it keeps the bytes of the frame store and of the scratch buffer, and no frame-store byte can be read before it is written
again. (That the parameters and the agenda stay is the model's, log 8.) -/
def Obligations.ResetTurnKeepsOnlyStorage : Prop :=
  ∀ s : State, s.nextTurn = .reset → ∃ t, step s = .next t
    ∧ t = { State.reset with cfg := s.cfg, fs := s.fs, scratch := s.scratch, agenda := s.agenda.tail }
    ∧ ∀ a b, fsRead t a ≠ .ok b

/-! ## Host port (42_host_interface.md, 10_state.md R41, R42) -/

/-- R163, R167, R169, R171, R173, R175, R177, R179, R180, R182, R185, R186: each read returns its register, zero-extended,
in every state, and changes nothing; what the four with a default return after reset. -/
def Obligations.ReadsReturnTheirRegister : Prop :=
  (exec .rdChannel State.reset = .next { State.reset with hostRdata := some 0x00000000#32 }
    ∧ exec .rdClockHz State.reset = .next { State.reset with hostRdata := some 0x007A1200#32 }
    ∧ exec .rdRowDelayMs State.reset = .next { State.reset with hostRdata := some 0x00000001#32 }
    ∧ exec .rdPassDelayMs State.reset = .next { State.reset with hostRdata := some 0x000001F4#32 })
  ∧ ∀ s : State,
    (∃ v, exec .rdCtrl s = .next { s with hostRdata := some v } ∧ v.toNat = if s.gammaEn then 4 else 0)
    ∧ exec .rdRepeats s = .next { s with hostRdata := some s.repeats }
    ∧ (∃ v, exec .rdWidth s = .next { s with hostRdata := some v } ∧ v.toNat = s.width.toNat)
    ∧ (∃ v, exec .rdHeight s = .next { s with hostRdata := some v } ∧ v.toNat = s.height.toNat)
    ∧ (∃ v, exec .rdChannel s = .next { s with hostRdata := some v } ∧ v.toNat = s.channel.toNat)
    ∧ exec .rdClockHz s = .next { s with hostRdata := some s.clockHz }
    ∧ (∃ v, exec .rdRowDelayMs s = .next { s with hostRdata := some v } ∧ v.toNat = s.rowDelayMs.toNat)
    ∧ (∃ v, exec .rdPassDelayMs s = .next { s with hostRdata := some v } ∧ v.toNat = s.passDelayMs.toNat)
    ∧ (∃ v, exec .rdRow s = .next { s with hostRdata := some v } ∧ v.toNat = s.row.toNat)
    ∧ exec .rdFsPtr s = .next { s with hostRdata := some s.fsPtr }
    ∧ exec .rdFsData s = .next { s with hostRdata := some 0#32 }
    ∧ ∀ k, exec (.rdRsvd12to15 k) s = .next { s with hostRdata := some 0#32 }
      ∧ exec (.rdRsvd16to31 k) s = .next { s with hostRdata := some 0#32 }
      ∧ exec (.rdRsvd32to63 k) s = .next { s with hostRdata := some 0#32 }

/-- R41 (codes of R21 and R201): a read of STATUS returns a word whose fields are STATE, BUSY, DONE, FAIL, ERR, FS_OVF and
STEP at their places and whose reserved bits are 0; at reset it is 0. -/
def Obligations.StatusWordFields : Prop :=
  State.reset.statusWord = 0#32 ∧
  ∀ s : State, ∃ v, exec .rdStatus s = .next { s with hostRdata := some v }
    ∧ (s.state = .idle → v.extractLsb' 0 3 = 0#3) ∧ (s.state = .configuring → v.extractLsb' 0 3 = 1#3)
    ∧ (s.state = .running → v.extractLsb' 0 3 = 2#3) ∧ (s.state = .blanking → v.extractLsb' 0 3 = 3#3)
    ∧ (s.state = .terminated → v.extractLsb' 0 3 = 4#3) ∧ (s.state = .failed → v.extractLsb' 0 3 = 5#3)
    ∧ (v.getLsbD 3 = true ↔ s.state = .configuring ∨ s.state = .running ∨ s.state = .blanking)
    ∧ (v.getLsbD 4 = true ↔ s.state = .terminated)
    ∧ (v.getLsbD 5 = true ↔ s.state = .failed)
    ∧ v.extractLsb' 6 2 = 0#2
    ∧ (s.err = .none → v.extractLsb' 8 4 = 0#4) ∧ (s.err = .geometry → v.extractLsb' 8 4 = 1#4)
    ∧ (s.err = .capacity → v.extractLsb' 8 4 = 2#4) ∧ (s.err = .truncated → v.extractLsb' 8 4 = 3#4)
    ∧ (s.err = .configure → v.extractLsb' 8 4 = 4#4) ∧ (s.err = .initTransport → v.extractLsb' 8 4 = 5#4)
    ∧ (s.err = .rowPayload → v.extractLsb' 8 4 = 6#4) ∧ (s.err = .rowLatch → v.extractLsb' 8 4 = 7#4)
    ∧ (s.err = .blankPayload → v.extractLsb' 8 4 = 8#4) ∧ (s.err = .blankLatch → v.extractLsb' 8 4 = 9#4)
    ∧ v.getLsbD 12 = s.fsOvf
    ∧ v.extractLsb' 13 3 = 0#3
    ∧ v.extractLsb' 16 4 = s.stepCode
    ∧ v.extractLsb' 20 12 = 0#12

/-- R161: outside `IDLE` a locked write has no effect at all; reads are never locked. -/
def Obligations.ConfigurationLock : Prop :=
  (∀ i : Instr, isLockedWrite i = true → ∀ s : State, s.state ≠ .idle → exec i s = .next s)
  ∧ ∀ i : Instr, isHostRead i = true → ∀ s : State, ∃ v, exec i s = .next { s with hostRdata := some v }

/-- R165, R181, R183, R187: a write to a read-only register or to a reserved index has no effect in any state. -/
def Obligations.InertWrites : Prop :=
  ∀ i : Instr, isInertWrite i = true → ∀ s : State, exec i s = .next s

/-- R166, R172, R174, R176, R178: in `IDLE` a configuration write stores its field of the data and changes nothing else;
elsewhere it has no effect; the defaults of the four that have one. -/
def Obligations.ConfigurationWrites : Prop :=
  (∀ (d : Word) (s : State), s.state = .idle →
    (∃ v, exec (.wrRepeats d) s = .next { s with repeats := v } ∧ v.toInt = d.toInt)
    ∧ (∃ v, exec (.wrChannel d) s = .next { s with channel := v } ∧ v.toNat = d.toNat % 256)
    ∧ (∃ v, exec (.wrClockHz d) s = .next { s with clockHz := v } ∧ v.toNat = d.toNat)
    ∧ (∃ v, exec (.wrRowDelayMs d) s = .next { s with rowDelayMs := v } ∧ v.toNat = d.toNat % 65536)
    ∧ ∃ v, exec (.wrPassDelayMs d) s = .next { s with passDelayMs := v } ∧ v.toNat = d.toNat % 65536)
  ∧ (∀ (d : Word) (s : State), s.state ≠ .idle →
    exec (.wrRepeats d) s = .next s ∧ exec (.wrChannel d) s = .next s ∧ exec (.wrClockHz d) s = .next s
    ∧ exec (.wrRowDelayMs d) s = .next s ∧ exec (.wrPassDelayMs d) s = .next s)
  ∧ State.reset.channel.toNat = 0 ∧ State.reset.clockHz.toNat = 8000000
  ∧ State.reset.rowDelayMs.toNat = 1 ∧ State.reset.passDelayMs.toNat = 500

/-- R168, R170: WIDTH and HEIGHT take `data[15:0]` in `IDLE`, whatever it is, and nothing elsewhere; a value 0, and a
WIDTH above `MAX_LEDS`, is rejected by CHECK. -/
def Obligations.GeometryWrites : Prop :=
  (∀ (d : Word) (s : State), s.state = .idle →
    (∃ v, exec (.wrWidth d) s = .next { s with width := v } ∧ v.toNat = d.toNat % 65536)
    ∧ ∃ v, exec (.wrHeight d) s = .next { s with height := v } ∧ v.toNat = d.toNat % 65536)
  ∧ (∀ (d : Word) (s : State), s.state ≠ .idle → exec (.wrWidth d) s = .next s ∧ exec (.wrHeight d) s = .next s)
  ∧ ∀ s : State, s.state = .configuring →
    s.width.toNat = 0 ∨ s.height.toNat = 0 ∨ s.cfg.maxLeds < s.width.toNat →
    ∃ t, exec .check s = .next t ∧ t.state = .failed ∧ t.err ≠ .none

/-- R162: in `IDLE` a CTRL write stores GAMMA_EN, then rewinds the frame-store port if FS_RESET is set, then starts the
sequencer if START is set, and changes nothing else; elsewhere it has no effect. With both set, the start check fails, with
ERR_GEOMETRY or ERR_TRUNCATED, unless the geometry exceeds a capacity (the order of the checks is R123's). -/
def Obligations.CtrlWrite : Prop :=
  ∀ (d : Word) (s : State),
    (s.state ≠ .idle → exec (.wrCtrl d) s = .next s)
    ∧ (s.state = .idle → ∃ t, exec (.wrCtrl d) s = .next t
      ∧ t.gammaEn = d.getLsbD 2
      ∧ (d.getLsbD 1 = true → t.fsPtr = 0#32 ∧ t.fsOvf = false)
      ∧ (d.getLsbD 1 = false → t.fsPtr = s.fsPtr ∧ t.fsOvf = s.fsOvf)
      ∧ (d.getLsbD 0 = true → t.state = .configuring ∧ t.stepCode = StepCode.check)
      ∧ (d.getLsbD 0 = false → t.state = .idle ∧ t.stepCode = s.stepCode)
      ∧ t = { s with gammaEn := t.gammaEn, fsPtr := t.fsPtr, fsOvf := t.fsOvf, state := t.state,
                     stepCode := t.stepCode }
      ∧ (d.getLsbD 0 = true → d.getLsbD 1 = true →
          ∃ u, exec .check t = .next u ∧ u.state = .failed
            ∧ (s.width.toNat = 0 ∨ s.height.toNat = 0 → u.err = .geometry)
            ∧ (s.width.toNat ≠ 0 → s.height.toNat ≠ 0 → s.width.toNat ≤ s.cfg.maxLeds →
                3 * s.width.toNat * s.height.toNat ≤ s.cfg.fsBytes → u.err = .truncated)))

/-- R184: in `IDLE` a FS_DATA write stores `data[7:0]` at `FS_PTR`, and nowhere else, and advances `FS_PTR`; with the frame
store full it sets FS_OVF and drops the byte; elsewhere it has no effect. -/
def Obligations.FsDataWrite : Prop :=
  ∀ (d : Word) (s : State), s.cfg.legal →
    (s.state ≠ .idle → exec (.wrFsData d) s = .next s)
    ∧ (s.state = .idle → s.cfg.fsBytes ≤ s.fsPtr.toNat → exec (.wrFsData d) s = .next { s with fsOvf := true })
    ∧ (s.state = .idle → s.fsPtr.toNat < s.cfg.fsBytes → ∃ t, exec (.wrFsData d) s = .next t
      ∧ (∃ b : Byte, t.fs.read s.fsPtr.toNat = some b ∧ b.toNat = d.toNat % 256)
      ∧ (∀ a, a ≠ s.fsPtr.toNat → t.fs.read a = s.fs.read a)
      ∧ t.fsPtr.toNat = s.fsPtr.toNat + 1
      ∧ t = { s with fs := t.fs, fsPtr := t.fsPtr })

/-- The LOAD pseudo-instruction (R82): n FS_DATA writes in `IDLE` store n bytes from `FS_PTR` up, in the order written, and
keep every other byte (R184, R241). -/
def Obligations.LoadStoresBytesInOrder : Prop :=
  ∀ (bs : List Byte) (rest : List Turn) (s : State), s.cfg.legal → s.state = .idle →
    s.fsPtr.toNat + bs.length ≤ s.cfg.fsBytes →
    s.agenda = bs.map (fun b => Turn.host (hostWord true 11#6 (b.setWidth 32))) ++ rest →
    ∃ t, Host.Core.run core bs.length s = .next t
      ∧ (∀ j, (h : j < bs.length) → t.fs.read (s.fsPtr.toNat + j) = some bs[j])
      ∧ (∀ a, a < s.fsPtr.toNat ∨ s.fsPtr.toNat + bs.length ≤ a → t.fs.read a = s.fs.read a)
      ∧ t.fsPtr.toNat = s.fsPtr.toNat + bs.length
      ∧ t = { s with fs := t.fs, fsPtr := t.fsPtr, hostRdata := t.hostRdata, agenda := rest }

/-- R160: every host word runs in every state and fails in none; a read changes nothing but the data it returns; a write
returns none, and touches neither the run (ROW, ERR, DLY_CNT, PRESC, scratch buffer, transport) nor the history. -/
def Obligations.HostTransactionsNeverFail : Prop :=
  ∀ (w : HostWord) (s : State), ∃ t, exec (decodeHost w) s = .next t
    ∧ (w.getLsbD 38 = false → ∃ v, t = { s with hostRdata := some v })
    ∧ (w.getLsbD 38 = true → t.hostRdata = s.hostRdata)
    ∧ t = { s with
        width := t.width, height := t.height, repeats := t.repeats, channel := t.channel, clockHz := t.clockHz,
        rowDelayMs := t.rowDelayMs, passDelayMs := t.passDelayMs, gammaEn := t.gammaEn, state := t.state,
        stepCode := t.stepCode, fsPtr := t.fsPtr, fsOvf := t.fsOvf, fs := t.fs, hostRdata := t.hostRdata }

/-- R235: START takes effect in the CTRL write itself, and from then on, until reset, no step brings `IDLE` back and a
STATUS read does not return `STATE = IDLE`. -/
def Obligations.StartLeavesIdleUntilReset : Prop :=
  (∀ (d : Word) (s : State), d.getLsbD 0 = true → ∃ t, exec (.wrCtrl d) s = .next t ∧ t.state ≠ .idle)
  ∧ (∀ s t : State, s.state ≠ .idle → s.nextTurn ≠ .reset → step s = .next t → t.state ≠ .idle)
  ∧ ∀ s : State, s.state ≠ .idle →
    ∃ v, exec .rdStatus s = .next { s with hostRdata := some v } ∧ v.extractLsb' 0 3 ≠ 0#3

/-! ## Encoder datapath (40_encoder.md) -/

/-- R103: PACK discards the low bit and sets the marker; its value is `128 + v / 2`; `0xFF` is its only fixed point. -/
def Obligations.PackValues : Prop :=
  ∀ v : Byte, (pack v).toNat = 128 + v.toNat / 2 ∧ (pack v).extractLsb' 0 7 = (v >>> 1).extractLsb' 0 7
    ∧ (pack v).getLsbD 7 = true ∧ (pack v = v ↔ v = 0xFF#8)

/-- R101: GAMMA is the source's literal formula, `floor(255.0 * (value/1.0)^2.5 + 0.5)` clamped to `[0, 255]`, on every
byte, that is 0 at 0 and 255 elsewhere, and idempotent. -/
def Obligations.GammaIsTheLiteralFormula : Prop :=
  ∀ v : Byte, (gamma v).toNat = min 255 ⌊255 * ((v.toNat : ℝ) / 1) ^ (2.5 : ℝ) + 0.5⌋₊
    ∧ gamma v = (if v = 0x00#8 then 0x00#8 else 0xFF#8) ∧ gamma (gamma v) = gamma v

/-- R104: on a whole number of triples, ENCODE keeps the length, and byte by byte `s'[i] = PACK(s[i+1])`,
`s'[i+1] = PACK(s[i])`, `s'[i+2] = PACK(s[i+2])`. -/
def Obligations.EncodeBufferByTriples : Prop :=
  ∀ bs : List Byte, bs.length % 3 = 0 → (encodeBuffer bs).length = bs.length
    ∧ ∀ k, 3 * k + 2 < bs.length →
      (encodeBuffer bs)[3 * k]? = bs[3 * k + 1]?.map pack
      ∧ (encodeBuffer bs)[3 * k + 1]? = bs[3 * k]?.map pack
      ∧ (encodeBuffer bs)[3 * k + 2]? = bs[3 * k + 2]?.map pack

/-- R105: on buffers of whole triples (R109), PACK and REORDER commute; REORDER is an involution, on triples and on such
buffers; PACK twice, and so ENCODE twice, maps every byte to `(v >> 2) | 0xC0`, and ENCODE twice is the identity exactly on
all-`0xFF` buffers; every encoded byte has bit 7 set and none is `0x00`. -/
def Obligations.EncoderAlgebra : Prop :=
  (∀ t : Byte × Byte × Byte, reorder (reorder t) = t)
  ∧ (∀ v : Byte, pack (pack v) = (v >>> 2) ||| 0xC0#8)
  ∧ ∀ bs : List Byte, bs.length % 3 = 0 →
    reorderTriples (bs.map pack) = (reorderTriples bs).map pack
    ∧ reorderTriples (reorderTriples bs) = bs
    ∧ encodeBuffer (encodeBuffer bs) = bs.map (fun v : Byte => (v >>> 2) ||| 0xC0#8)
    ∧ (encodeBuffer (encodeBuffer bs) = bs ↔ ∀ v ∈ bs, v = 0xFF#8)
    ∧ ∀ v ∈ encodeBuffer bs, v.getLsbD 7 = true ∧ v ≠ 0x00#8

/-! ## Sequencer: configuring (41_sequencer.md R122 to R127) -/

/-- R123: CHECK reports the first failing of geometry, capacity and truncation, in exact arithmetic, else goes on to
CONFIGURE; nothing else changes. -/
def Obligations.CheckOutcome : Prop :=
  ∀ s : State, s.state = .configuring →
    let n := 3 * s.width.toNat * s.height.toNat
    (s.width.toNat = 0 ∨ s.height.toNat = 0 →
      exec .check s = .next { s with err := .geometry, state := .failed, stepCode := StepCode.halt })
    ∧ (s.width.toNat ≠ 0 → s.height.toNat ≠ 0 → (s.cfg.maxLeds < s.width.toNat ∨ s.cfg.fsBytes < n) →
      exec .check s = .next { s with err := .capacity, state := .failed, stepCode := StepCode.halt })
    ∧ (s.width.toNat ≠ 0 → s.height.toNat ≠ 0 → s.width.toNat ≤ s.cfg.maxLeds → n ≤ s.cfg.fsBytes →
      s.fsPtr.toNat < n →
      exec .check s = .next { s with err := .truncated, state := .failed, stepCode := StepCode.halt })
    ∧ (s.width.toNat ≠ 0 → s.height.toNat ≠ 0 → s.width.toNat ≤ s.cfg.maxLeds → n ≤ s.cfg.fsBytes →
      n ≤ s.fsPtr.toNat → exec .check s = .next { s with stepCode := StepCode.configure })

/-- R124, R125: CONFIGURE and INITIALIZE record their request with its answer and go on if it is `Ok`; on `Err` the error
is fatal, with the code of the failing step. -/
def Obligations.ConfigureAndInitializeAnswers : Prop :=
  ∀ s : State, s.state = .configuring →
    (s.txAnswer = some .ok →
      exec .configure s = .next { s with
        history := s.history ++ [.configure s.channel s.clockHz .ok], txPending := none, txAnswer := none,
        stepCode := StepCode.initTransport }
      ∧ exec .initTransport s = .next { s with
        history := s.history ++ [.initTransport .ok], txPending := none, txAnswer := none,
        stepCode := StepCode.passTest })
    ∧ (s.txAnswer = some .err →
      exec .configure s = .next { s with
        history := s.history ++ [.configure s.channel s.clockHz .err], txPending := none, txAnswer := none,
        err := .configure, state := .failed, stepCode := StepCode.halt }
      ∧ exec .initTransport s = .next { s with
        history := s.history ++ [.initTransport .err], txPending := none, txAnswer := none,
        err := .initTransport, state := .failed, stepCode := StepCode.halt })

/-- R126: PASS_TEST starts the first pass at row 0 if `REPEATS > 0`, signed, else terminates; REPEATS is not changed. -/
def Obligations.PassTestOutcome : Prop :=
  ∀ s : State, s.state = .configuring →
    (0 < s.repeats.toInt →
      exec .passTest s = .next { s with row := 0#16, state := .running, stepCode := StepCode.loadRow })
    ∧ (s.repeats.toInt ≤ 0 → exec .passTest s = .next { s with state := .terminated, stepCode := StepCode.halt })

/-- R127: started with `REPEATS ≤ 0` and a configuration that succeeds, the run issues the two requests `CFG` and `INIT`,
no `WR` request and no delay, and ends in `TERMINATED` with `REPEATS` unchanged. (The run is that of one schedule of the
model's turns, logs 2 and 4: the sequencer, the answers `Ok` and `Ok`, the sequencer; no host turn, held turn, accepted byte,
late answer or timer turn comes between.) -/
def Obligations.NonPositiveRepeatsSendNothing : Prop :=
  ∀ (s : State) (rest : List Turn), s.Inv → s.state = .configuring → s.stepCode = StepCode.check → s.GeometryChecked →
    s.repeats.toInt ≤ 0 → s.agenda = [.sequencer, .transport .ok, .transport .ok, .sequencer] ++ rest →
    ∃ t, Host.Core.run core 4 s = .next t ∧ t.state = .terminated ∧ t.stepCode = StepCode.halt
      ∧ t.repeats = s.repeats
      ∧ t.history = s.history ++ [.configure s.channel s.clockHz .ok, .initTransport .ok]
      ∧ t = { s with state := t.state, stepCode := t.stepCode, history := t.history, txPending := t.txPending,
                     hostRdata := t.hostRdata, agenda := rest }

/-! ## Sequencer: one row (R128 to R133) -/

/-- R128: LOAD_ROW copies row `ROW` of the frame store, through GAMMA if `GAMMA_EN` is set, into `scratch[0 .. 3*WIDTH)`
and goes on to ENCODE; no other scratch byte and nothing else changes, the frame store least of all. In a state that the
rules reach, every address read is below `3*WIDTH*HEIGHT`, that is at most `FS_PTR`, so the instruction runs. -/
def Obligations.LoadRowCopiesTheRow : Prop :=
  (∀ s : State, s.state = .running → s.width.toNat ≤ s.cfg.maxLeds →
    s.row.toNat * 3 * s.width.toNat + 3 * s.width.toNat ≤ s.fsPtr.toNat → s.fsPtr.toNat ≤ s.cfg.fsBytes →
    (∀ j, j < 3 * s.width.toNat → (s.fs.read (s.row.toNat * 3 * s.width.toNat + j)).isSome) →
    ∃ t, exec .loadRow s = .next t
      ∧ (∀ j, j < 3 * s.width.toNat → t.scratch.read j
          = (s.fs.read (s.row.toNat * 3 * s.width.toNat + j)).map (fun b => if s.gammaEn then gamma b else b))
      ∧ (∀ a, 3 * s.width.toNat ≤ a → t.scratch.read a = s.scratch.read a)
      ∧ t = { s with scratch := t.scratch, stepCode := StepCode.encodeBuf })
  ∧ ∀ s : State, s.Inv → s.state = .running → s.width.toNat ≤ s.cfg.maxLeds
      ∧ s.row.toNat * 3 * s.width.toNat + 3 * s.width.toNat ≤ 3 * s.width.toNat * s.height.toNat
      ∧ 3 * s.width.toNat * s.height.toNat ≤ s.fsPtr.toNat ∧ s.fsPtr.toNat ≤ s.cfg.fsBytes
      ∧ ∀ j, j < 3 * s.width.toNat → (s.fs.read (s.row.toNat * 3 * s.width.toNat + j)).isSome

/-- R129: ENCODE transforms `scratch[0 .. 3*WIDTH)` in place, triple by triple, and goes on to TX_PAYLOAD; no other
scratch byte and nothing else changes. In a state that the rules reach, every byte read has been written, so the
instruction runs. A buffer of zeros becomes one of `0x80`; so in `BLANKING`, in a state that the rules reach (one with the
invariants of StepKeepsTheInvariant and StepKeepsTheFrameInScratch), the result is `3*WIDTH` bytes `0x80`. -/
def Obligations.EncodeTransformsTheScratchBuffer : Prop :=
  (∀ s : State, s.state = .running ∨ s.state = .blanking → s.width.toNat ≤ s.cfg.maxLeds →
    (∀ j, j < 3 * s.width.toNat → (s.scratch.read j).isSome) →
    ∃ t, exec .encodeBuf s = .next t
      ∧ (∀ k, k < s.width.toNat →
        t.scratch.read (3 * k) = (s.scratch.read (3 * k + 1)).map pack
        ∧ t.scratch.read (3 * k + 1) = (s.scratch.read (3 * k)).map pack
        ∧ t.scratch.read (3 * k + 2) = (s.scratch.read (3 * k + 2)).map pack)
      ∧ (∀ a, 3 * s.width.toNat ≤ a → t.scratch.read a = s.scratch.read a)
      ∧ t = { s with scratch := t.scratch, stepCode := StepCode.txPayload })
  ∧ (∀ s : State, s.Inv → s.stepCode = StepCode.encodeBuf →
    s.width.toNat ≤ s.cfg.maxLeds ∧ ∀ j, j < 3 * s.width.toNat → (s.scratch.read j).isSome)
  ∧ (∀ s t : State, (∀ j, j < 3 * s.width.toNat → s.scratch.read j = some 0x00#8) → exec .encodeBuf s = .next t →
    ∀ j, j < 3 * s.width.toNat → t.scratch.read j = some 0x80#8)
  ∧ ∀ s : State, s.Inv → s.ScratchHolds → s.state = .blanking → s.stepCode = StepCode.encodeBuf →
    ∃ t, exec .encodeBuf s = .next t ∧ ∀ j, j < 3 * s.width.toNat → t.scratch.read j = some 0x80#8

/-- R130: TX_PAYLOAD sends `scratch[0 .. 3*WIDTH)` to `CHANNEL` as one write and records it with its answer; `Ok` goes on
to TX_LATCH, `Err` is fatal, with a code that tells a row from the blank frame. The scratch buffer does not change. -/
def Obligations.TxPayloadAnswers : Prop :=
  ∀ (s : State) (p : List Byte), s.width.toNat ≤ s.cfg.maxLeds → p.length = 3 * s.width.toNat →
    (∀ j, (h : j < p.length) → s.scratch.read j = some p[j]) →
    (s.state = .running ∨ s.state = .blanking → s.txAnswer = some .ok →
      exec .txPayload s = .next { s with
        history := s.history ++ [.write s.channel p .ok], txPending := none, txAnswer := none,
        stepCode := StepCode.txLatch })
    ∧ (s.state = .running → s.txAnswer = some .err →
      exec .txPayload s = .next { s with
        history := s.history ++ [.write s.channel p .err], txPending := none, txAnswer := none,
        err := .rowPayload, state := .failed, stepCode := StepCode.halt })
    ∧ (s.state = .blanking → s.txAnswer = some .err →
      exec .txPayload s = .next { s with
        history := s.history ++ [.write s.channel p .err], txPending := none, txAnswer := none,
        err := .blankPayload, state := .failed, stepCode := StepCode.halt })

/-- R131: TX_LATCH sends three zero bytes to `CHANNEL` and records it with its answer; `Ok` loads the delay of the row or
of the pass and clears `PRESC`, `Err` is fatal, with a code that tells a row from the blank frame. -/
def Obligations.TxLatchAnswers : Prop :=
  ∀ s : State,
    (s.state = .running → s.txAnswer = some .ok →
      exec .txLatch s = .next { s with
        history := s.history ++ [.write s.channel [0#8, 0#8, 0#8] .ok], txPending := none, txAnswer := none,
        dlyCnt := s.rowDelayMs, presc := 0, stepCode := StepCode.rowDelay })
    ∧ (s.state = .blanking → s.txAnswer = some .ok →
      exec .txLatch s = .next { s with
        history := s.history ++ [.write s.channel [0#8, 0#8, 0#8] .ok], txPending := none, txAnswer := none,
        dlyCnt := s.passDelayMs, presc := 0, stepCode := StepCode.passDelay })
    ∧ (s.state = .running → s.txAnswer = some .err →
      exec .txLatch s = .next { s with
        history := s.history ++ [.write s.channel [0#8, 0#8, 0#8] .err], txPending := none, txAnswer := none,
        err := .rowLatch, state := .failed, stepCode := StepCode.halt })
    ∧ (s.state = .blanking → s.txAnswer = some .err →
      exec .txLatch s = .next { s with
        history := s.history ++ [.write s.channel [0#8, 0#8, 0#8] .err], txPending := none, txAnswer := none,
        err := .blankLatch, state := .failed, stepCode := StepCode.halt })

/-- R121, R46, R48: until the transport answers, a transport micro-operation holds with its request pending: presented
with its byte stream at byte 0, or, if it is pending already, left as it is; nothing else changes. (The model's own: that the
hold is a step, log 3 and log 4; that the stream starts at byte 0 when the request is presented, and that a further holding
turn does not present a pending request anew, log 16.) -/
def Obligations.TransportMicroOpsHoldUntilAnswered : Prop :=
  ∀ s : State, s.txAnswer = none →
    let holdsWith := fun (i : Instr) (r : Request) => ∃ t, exec i s = .next t
      ∧ (∀ n, s.txPending = some ⟨r, n⟩ → t = s)
      ∧ ((∀ n, s.txPending ≠ some ⟨r, n⟩) → t = { s with txPending := some ⟨r, 0⟩ })
    (s.state = .configuring →
      holdsWith .configure (.cfg s.channel s.clockHz) ∧ holdsWith .initTransport .init)
    ∧ (s.state = .running ∨ s.state = .blanking →
      holdsWith .txLatch (.wr s.channel [0#8, 0#8, 0#8])
      ∧ ∀ p : List Byte, s.width.toNat ≤ s.cfg.maxLeds → p.length = 3 * s.width.toNat →
        (∀ j, (h : j < p.length) → s.scratch.read j = some p[j]) →
        holdsWith .txPayload (.wr s.channel p))

/-- R132, R135: a delay micro-operation with `DLY_CNT = 0` records that the delay is over and goes on; with `DLY_CNT > 0`
it holds. (That a hold is a step is the model's, log 3.) -/
def Obligations.DelayMicroOpsWaitForZero : Prop :=
  ∀ s : State,
    (s.state = .running → s.dlyCnt.toNat = 0 → exec .rowDelay s = .next { s with
        history := s.history ++ [.delayDone s.rowDelayMs], stepCode := StepCode.rowNext })
    ∧ (s.state = .running → 0 < s.dlyCnt.toNat → exec .rowDelay s = .next s)
    ∧ (s.state = .blanking → s.dlyCnt.toNat = 0 → exec .passDelay s = .next { s with
        history := s.history ++ [.delayDone s.passDelayMs], stepCode := StepCode.passEnd })
    ∧ (s.state = .blanking → 0 < s.dlyCnt.toNat → exec .passDelay s = .next s)

/-- R133: ROW_NEXT goes on to the next row while `ROW + 1 < HEIGHT`, else to blanking with `ROW = HEIGHT`; the addition
does not wrap where `ROW < HEIGHT` (R47). -/
def Obligations.RowNextAdvances : Prop :=
  ∀ s : State, s.state = .running → s.row.toNat < s.height.toNat → ∃ r : Half, r.toNat = s.row.toNat + 1
    ∧ (s.row.toNat + 1 < s.height.toNat →
      exec .rowNext s = .next { s with row := r, stepCode := StepCode.loadRow })
    ∧ (¬ s.row.toNat + 1 < s.height.toNat → r = s.height ∧
      exec .rowNext s = .next { s with row := r, state := .blanking, stepCode := StepCode.blankFill })

/-! ## Sequencer: blanking, halt and the reserved code (R134 to R138) -/

/-- R134: BLANK_FILL zeroes `scratch[0 .. 3*WIDTH)` and goes on to ENCODE; no other scratch byte and nothing else
changes. -/
def Obligations.BlankFillZeroes : Prop :=
  ∀ s : State, s.state = .blanking → s.width.toNat ≤ s.cfg.maxLeds → ∃ t, exec .blankFill s = .next t
    ∧ (∀ j, j < 3 * s.width.toNat → t.scratch.read j = some 0x00#8)
    ∧ (∀ a, 3 * s.width.toNat ≤ a → t.scratch.read a = s.scratch.read a)
    ∧ t = { s with scratch := t.scratch, stepCode := StepCode.encodeBuf }

/-- R136: PASS_END counts the pass down and clears `ROW`; the next pass runs while `REPEATS` is still positive, else the
run terminates. `REPEATS ≥ 1` before (R47), so the decrement does not wrap. -/
def Obligations.PassEndCountsDown : Prop :=
  ∀ s : State, s.state = .blanking → 1 ≤ s.repeats.toInt → ∃ r : Word, r.toInt = s.repeats.toInt - 1
    ∧ (1 < s.repeats.toInt → exec .passEnd s = .next { s with
        repeats := r, row := 0#16, state := .running, stepCode := StepCode.loadRow })
    ∧ (s.repeats.toInt = 1 → exec .passEnd s = .next { s with
        repeats := r, row := 0#16, state := .terminated, stepCode := StepCode.halt })

/-- R121, R122, R137: WAIT_START in `IDLE` and HALT in `TERMINATED` and `FAILED` hold: the sequencer's turn changes
nothing. (That a hold is a step is the model's, log 3.) -/
def Obligations.WaitStartAndHaltHold : Prop :=
  ∀ s : State, (s.state = .idle → exec .waitStart s = .next s)
    ∧ (s.state = .terminated ∨ s.state = .failed → (∀ k, s.err ≠ .reserved k) → exec .halt s = .next s)

/-- R138: the micro-operation of `STEP` = 0xF faults in every state, and so does the sequencer's turn that finds it; from a
legal pair it is never entered. (The model's own: that the fault a model owes there is raised in the sequencer's turn, and
that a turn that runs no micro-operation goes on, log 9; the turns, log 2.) -/
def Obligations.ReservedStepFaults : Prop :=
  (∀ s : State, exec .stepRsvd s = .fault .reservedStep)
  ∧ (∀ s : State, s.stepCode = 0xF#4 → s.nextTurn = .sequencer → step s = .fault .reservedStep)
  ∧ ∀ s t : State, s.state ∈ legalPhases s.stepCode → step s = .next t → t.stepCode ≠ 0xF#4

/-- R73: the legal pairs are exactly those listed; no step leads from a legal pair to another; the sequencer's turn that
finds another pair faults. (The model's own: that the fault a model owes there is raised by the micro-operation, in the
sequencer's turn, and that a turn that runs no micro-operation goes on, log 9; the turns, log 2.) -/
def Obligations.IllegalPairsFault : Prop :=
  (∀ (p : Phase) (c : MicroCode), p ∈ legalPhases c ↔ (p, c) ∈
    [(Phase.idle, 0x0#4), (.configuring, 0x1#4), (.configuring, 0x2#4), (.configuring, 0x3#4), (.configuring, 0x4#4),
     (.running, 0x5#4), (.running, 0x6#4), (.running, 0x7#4), (.running, 0x8#4), (.running, 0x9#4), (.running, 0xA#4),
     (.blanking, 0xB#4), (.blanking, 0x6#4), (.blanking, 0x7#4), (.blanking, 0x8#4), (.blanking, 0xC#4),
     (.blanking, 0xD#4), (.terminated, 0xE#4), (.failed, 0xE#4)])
  ∧ (∀ s t : State, s.state ∈ legalPhases s.stepCode → step s = .next t → t.state ∈ legalPhases t.stepCode)
  ∧ ∀ s : State, s.state ∉ legalPhases s.stepCode → s.nextTurn = .sequencer → ∃ f, step s = .fault f

/-- I1, I2, D33: a row that needs a frame-store byte not written since reset or FS_RESET, and a frame that needs a scratch
byte never written, fault; no value is invented. -/
def Obligations.UnwrittenStorageFaults : Prop :=
  (∀ (s : State) (j : Nat), s.state = .running → j < 3 * s.width.toNat →
    (s.fsPtr.toNat ≤ s.row.toNat * 3 * s.width.toNat + j ∨ s.fs.read (s.row.toNat * 3 * s.width.toNat + j) = none) →
    ∃ f, exec .loadRow s = .fault f)
  ∧ ∀ (s : State) (j : Nat), s.state = .running ∨ s.state = .blanking → j < 3 * s.width.toNat →
    s.scratch.read j = none → (∃ f, exec .encodeBuf s = .fault f) ∧ ∃ f, exec .txPayload s = .fault f

/-! ## Fatal errors (60_exceptions.md) -/

/-- R202 (codes of R201): where an instruction goes to `FAILED`, it is one of five micro-operations, in the state and with
the code of R201's table, and fatal entry writes ERR, STATE and STEP and nothing else; a failing transport micro-operation
still records its request, with `Err`, and its request is no longer pending. -/
def Obligations.FatalEntryIsPrecise : Prop :=
  ∀ (i : Instr) (s t : State), exec i s = .next t → s.state ≠ .failed → t.state = .failed →
    (i, s.state, t.err) ∈
      [(Instr.check, Phase.configuring, ErrCode.geometry), (.check, .configuring, .capacity),
       (.check, .configuring, .truncated), (.configure, .configuring, .configure),
       (.initTransport, .configuring, .initTransport), (.txPayload, .running, .rowPayload),
       (.txLatch, .running, .rowLatch), (.txPayload, .blanking, .blankPayload), (.txLatch, .blanking, .blankLatch)]
    ∧ (i = .check → t = { s with err := t.err, state := .failed, stepCode := StepCode.halt })
    ∧ (i = .configure → t.history = s.history ++ [.configure s.channel s.clockHz .err])
    ∧ (i = .initTransport → t.history = s.history ++ [.initTransport .err])
    ∧ (i = .txPayload → ∃ p : List Byte, p.length = 3 * s.width.toNat
      ∧ (∀ j, (h : j < p.length) → s.scratch.read j = some p[j])
      ∧ t.history = s.history ++ [.write s.channel p .err])
    ∧ (i = .txLatch → t.history = s.history ++ [.write s.channel [0#8, 0#8, 0#8] .err])
    ∧ (i ≠ .check → s.txAnswer = some .err
      ∧ t = { s with err := t.err, state := .failed, stepCode := StepCode.halt, history := t.history,
                     txPending := none, txAnswer := none })

/-- R205, R137: in `FAILED`, and in `TERMINATED`, nothing but reset changes the state: a turn of any agent leaves all of
it but the read data as it was; no request is pending there (R47, R46), and if one were, a byte of it could still be
accepted. (The model's own: that the sequencer's turn at HALT is a step that answers the same state, log 3; that an answer
there is ignored, log 4; that the tick and the clock cycle are two kinds of turn, log 11; that an accepted byte is a turn,
log 16.) -/
def Obligations.HaltedUntilReset : Prop :=
  ∀ s : State, s.state = .failed ∨ s.state = .terminated → s.stepCode = StepCode.halt →
    (∀ k, s.err ≠ .reserved k) → s.nextTurn ≠ .reset →
    ∃ t, step s = .next t
      ∧ t = { s with hostRdata := t.hostRdata, agenda := s.agenda.tail, txPending := t.txPending }
      ∧ (s.txPending = none ∨ s.nextTurn ≠ .txDataReady → t.txPending = s.txPending)

/-! ## The delay timer (60_exceptions.md R220 to R223) -/

/-- R220: a tick decrements `DLY_CNT` in a delay micro-operation with `DLY_CNT > 0`, and otherwise changes nothing. -/
def Obligations.TickCountsDown : Prop :=
  ∀ s : State,
    ((s.state = .running ∨ s.state = .blanking) → (s.stepCode = StepCode.rowDelay ∨ s.stepCode = StepCode.passDelay) →
      0 < s.dlyCnt.toNat → ∃ d : Half, d.toNat = s.dlyCnt.toNat - 1 ∧ tick s = { s with dlyCnt := d })
    ∧ (¬ ((s.state = .running ∨ s.state = .blanking) ∧ (s.stepCode = StepCode.rowDelay ∨ s.stepCode = StepCode.passDelay)
        ∧ 0 < s.dlyCnt.toNat) → tick s = s)

/-- R222: after a latch answered `Ok`, with N the delay that applies, the delay micro-operation is enabled after exactly N
ticks: with fewer it holds, with N or more it goes on. (That a hold is a step that changes nothing is the model's,
log 3.) -/
def Obligations.DelayLastsExactlyItsTicks : Prop :=
  ∀ (s t : State) (k : Nat), s.txAnswer = some .ok → exec .txLatch s = .next t →
    (s.state = .running →
      (k < s.rowDelayMs.toNat → exec .rowDelay (tick^[k] t) = .next (tick^[k] t))
      ∧ (s.rowDelayMs.toNat ≤ k → exec .rowDelay (tick^[k] t) = .next { (tick^[k] t) with
          history := t.history ++ [.delayDone s.rowDelayMs], stepCode := StepCode.rowNext }))
    ∧ (s.state = .blanking →
      (k < s.passDelayMs.toNat → exec .passDelay (tick^[k] t) = .next (tick^[k] t))
      ∧ (s.passDelayMs.toNat ≤ k → exec .passDelay (tick^[k] t) = .next { (tick^[k] t) with
          history := t.history ++ [.delayDone s.passDelayMs], stepCode := StepCode.passEnd }))

/-- R223: a clock cycle of a running delay advances `PRESC`, or at `CYCLES_PER_MS - 1` clears it and ticks; so a delay
loaded with N, `PRESC` cleared, lasts exactly `N * CYCLES_PER_MS` cycles, and a cycle changes nothing else. -/
def Obligations.DelayLastsExactlyItsCycles : Prop :=
  (∀ s : State, s.stepCode = StepCode.rowDelay ∨ s.stepCode = StepCode.passDelay → 0 < s.dlyCnt.toNat →
    (s.presc = s.cfg.cyclesPerMs - 1 → clockCycle s = tick { s with presc := 0 })
    ∧ (s.presc ≠ s.cfg.cyclesPerMs - 1 → clockCycle s = { s with presc := s.presc + 1 }))
  ∧ ∀ (s : State) (k : Nat), s.cfg.legal → s.presc = 0 → s.state = .running ∨ s.state = .blanking →
    s.stepCode = StepCode.rowDelay ∨ s.stepCode = StepCode.passDelay →
    let t := clockCycle^[k] s
    t.dlyCnt.toNat = s.dlyCnt.toNat - k / s.cfg.cyclesPerMs
      ∧ (t.dlyCnt.toNat = 0 ↔ s.dlyCnt.toNat * s.cfg.cyclesPerMs ≤ k)
      ∧ t = { s with dlyCnt := t.dlyCnt, presc := t.presc }

/-! ## The whole machine -/

/-- R120: from a legal pair, a step leaves (STATE, STEP) as they are, or takes an edge of the transition table, or is a
reset, which goes to (`IDLE`, `WAIT_START`). -/
def Obligations.OnlyTableEdgesAreTaken : Prop :=
  ∀ s t : State, s.state ∈ legalPhases s.stepCode → step s = .next t →
    (t.state = s.state ∧ t.stepCode = s.stepCode) ∨ isEdge s.state s.stepCode t.state t.stepCode = true
    ∨ (s.nextTurn = .reset ∧ t.state = .idle ∧ t.stepCode = StepCode.waitStart)

/-- R66, R47 item 6: outside `IDLE` no step but reset changes the configuration, the frame store, `FS_PTR` or FS_OVF, and
only PASS_END changes `REPEATS`. -/
def Obligations.NothingLoadedChangesOutsideIdle : Prop :=
  ∀ s t : State, s.state ≠ .idle → s.nextTurn ≠ .reset → step s = .next t →
    t.fs = s.fs ∧ t.fsPtr = s.fsPtr ∧ t.fsOvf = s.fsOvf ∧ t.width = s.width ∧ t.height = s.height
    ∧ t.channel = s.channel ∧ t.clockHz = s.clockHz ∧ t.rowDelayMs = s.rowDelayMs ∧ t.passDelayMs = s.passDelayMs
    ∧ t.gammaEn = s.gammaEn ∧ t.cfg = s.cfg
    ∧ (t.repeats ≠ s.repeats → s.state = .blanking ∧ s.stepCode = StepCode.passEnd)

/-- R47 items 1 to 5 and 7, with the storage and interface facts that make them inductive, hold at reset
(whose parameters are log 1's). -/
def Obligations.InvariantHoldsAtReset : Prop := State.reset.Inv

/-- R47: every step of every agent, from any state that satisfies the invariants, gives a state that satisfies them. -/
def Obligations.StepKeepsTheInvariant : Prop :=
  ∀ s t : State, s.Inv → step s = .next t → t.Inv

/-- The spec asks a model to fault only where no rule leads: from a state that satisfies the invariants, the next step,
whatever the turn, gives a next state. (That a hold, of WAIT_START, HALT, a running delay or an unanswered request, is a
step is the model's, log 3 and log 4.) -/
def Obligations.InvariantStatesNeverStop : Prop :=
  ∀ s : State, s.Inv → ∃ t, step s = .next t

/-- R128 to R130, R134: at reset and after every step, the scratch buffer at ENCODE holds the frame being sent (the row
through the gamma stage, or zeros in blanking), and at TX_PAYLOAD and TX_LATCH its encoding. -/
def Obligations.StepKeepsTheFrameInScratch : Prop :=
  State.reset.ScratchHolds ∧ ∀ s t : State, s.Inv → s.ScratchHolds → step s = .next t → t.ScratchHolds

/-- R107, R139: at reset and after every step, the history follows the transmit protocol: `CFG`, `INIT`, then payload,
latch to the same channel, delay, over and over, and no event after an `Err`. -/
def Obligations.StepKeepsTheTransmitProtocol : Prop :=
  State.reset.InProtocol ∧ ∀ s t : State, s.Inv → s.ScratchHolds → s.InProtocol → step s = .next t → t.InProtocol

/-- R108, W3: in a history that follows the protocol, every write is a payload, all of whose bytes lie in `[0x80, 0xFF]`,
or the three zero bytes of a latch; and a payload answered `Ok` is followed by its latch, to the same channel, before any
other event. -/
def Obligations.ProtocolFramesEveryPayload : Prop :=
  ∀ (h : List Event) (p : Protocol), Protocol.after .start h = some p →
    (∀ c bs a, Event.write c bs a ∈ h → (bs ≠ [] ∧ ∀ b ∈ bs, 0x80 ≤ b.toNat) ∨ bs = [0#8, 0#8, 0#8])
    ∧ ∀ i c bs, h[i]? = some (.write c bs .ok) → bs ≠ [0#8, 0#8, 0#8] →
      h.length = i + 1 ∨ ∃ a, h[i + 1]? = some (.write c [0#8, 0#8, 0#8] a)

/-- R204 (4): no outcome depends on the order of a host write and another agent's step. Outside `IDLE` a host write
commutes with the sequencer's step and with the transport's answer; in `IDLE`, at WAIT_START, neither changes anything but
the read data (the sequencer has no step there); everywhere a host write commutes with an
answer to an abandoned request, and any host transaction with a tick, with an accepted byte, and, at the legal pairs of
R73, with a clock cycle. (The model's own: that WAIT_START's hold is a step, log 3; that an answer it does not wait for is
ignored, log 4, also at an illegal pair, log 9; that those three leave read data valid and the others do not, log 5; that the
tick, the clock cycle and the accepted byte are turns of their own, log 11 and log 16.) -/
def Obligations.HostWriteOrderIsUnobservable : Prop :=
  (∀ (w : HostWord) (s t : State), w.getLsbD 38 = true → s.state ≠ .idle → sequencerTurn s = .next t →
    ∃ u, hostTurn w s = .next u ∧ sequencerTurn u = .next t ∧ hostTurn w t = .next t)
  ∧ (∀ (w : HostWord) (a : Answer) (s t : State), w.getLsbD 38 = true → s.state ≠ .idle → transportTurn a s = .next t →
    ∃ u, hostTurn w s = .next u ∧ transportTurn a u = .next t ∧ hostTurn w t = .next t)
  ∧ (∀ (a : Answer) (s : State), s.state = .idle → s.stepCode = StepCode.waitStart →
    sequencerTurn s = .next { s with hostRdata := none } ∧ transportTurn a s = .next { s with hostRdata := none })
  ∧ (∀ (w : HostWord) (s t : State), w.getLsbD 38 = true → hostTurn w s = .next t →
    ∃ u, ignoreAnswer s = .next u ∧ hostTurn w u = .next t ∧ ignoreAnswer t = .next t)
  ∧ ∀ (w : HostWord) (s t : State), hostTurn w s = .next t →
    hostTurn w (tick s) = .next (tick t)
    ∧ (s.state ∈ legalPhases s.stepCode → hostTurn w (clockCycle s) = .next (clockCycle t))
    ∧ hostTurn w (acceptByte s) = .next (acceptByte t)

/-! ## Whole runs (R139, R140) -/

/-- R139: one pass, when every answer is `Ok`, emits exactly the history of its rows and of the blank frame, which has
`2 * HEIGHT + 2` writes. (The run is that of one schedule of the model's turns, `passTurns`, logs 2 and 4, narrower than the
rule: no host turn, held turn, accepted byte, late answer, clock cycle or surplus tick comes between; the ticks are those of
log 11.) -/
def Obligations.OnePassEmitsItsHistory : Prop :=
  ∀ (s : State) (frames : List (List Byte)) (rest : List Turn), s.Inv → s.state = .running →
    s.stepCode = StepCode.loadRow → s.row = 0#16 → s.FramesAre frames → s.agenda = passTurns s ++ rest →
    ∃ t, Host.Core.run core (passTurns s).length s = .next t
      ∧ t.history = s.history ++ passHistory s frames
      ∧ ((passHistory s frames).filter fun e => match e with | .write _ _ _ => true | _ => false).length
          = 2 * s.height.toNat + 2
      ∧ t.repeats.toInt = s.repeats.toInt - 1 ∧ t.row = 0#16 ∧ t.agenda = rest
      ∧ (1 < s.repeats.toInt → t.state = .running ∧ t.stepCode = StepCode.loadRow)
      ∧ (s.repeats.toInt = 1 → t.state = .terminated ∧ t.stepCode = StepCode.halt)

/-- R140: a complete successful run from START with `REPEATS = k` emits `Configure`, `Initialize`, then the pass history
`max(k, 0)` times, and ends in `TERMINATED` with `REPEATS = min(k, 0)`, `ROW = 0` and `ERR = 0`, after
`max(k, 0) * (2 * HEIGHT + 2)` writes. (The run is that of one schedule of the model's turns, logs 2 and 4, narrower than the
rule: no host turn, held turn, accepted byte, late answer, clock cycle or surplus tick comes between; the ticks are those of
log 11.) -/
def Obligations.SuccessfulRunEmitsItsHistory : Prop :=
  ∀ (s : State) (frames : List (List Byte)) (rest : List Turn), s.Inv → s.state = .configuring →
    s.stepCode = StepCode.check → s.GeometryChecked → s.history = [] → s.FramesAre frames →
    let k := s.repeats.toInt.toNat
    let turns := [Turn.sequencer, .transport .ok, .transport .ok, .sequencer]
      ++ (List.replicate k (passTurns s)).flatten
    s.agenda = turns ++ rest →
    ∃ t, Host.Core.run core turns.length s = .next t
      ∧ t.history = [.configure s.channel s.clockHz .ok, .initTransport .ok]
          ++ (List.replicate k (passHistory s frames)).flatten
      ∧ (t.history.filter fun e => match e with | .write _ _ _ => true | _ => false).length
          = k * (2 * s.height.toNat + 2)
      ∧ t.state = .terminated ∧ t.repeats.toInt = min s.repeats.toInt 0 ∧ t.row = 0#16 ∧ t.err = .none

/-! ## The byte stream of a request (R31, R48, R55) -/

/-- R48, R31, R55: the byte stream of a request presents its bytes in index order, byte 0 first, one per accepted
handshake: after k of them `tx_data` is byte k, and after the last none is presented, nor for a request that has no bytes;
a handshake changes nothing else, and where no byte is presented, nothing. (That a byte is presented from the moment the
request is, and while one is left, is the model's, log 16.) -/
def Obligations.ByteStreamDeliversTheRequest : Prop :=
  (∀ (s : State) (r : Request) (k : Nat), s.txPending = some ⟨r, 0⟩ → k ≤ r.data.length →
    acceptByte^[k] s = { s with txPending := some ⟨r, k⟩ } ∧ (acceptByte^[k] s).txData = r.data[k]?)
  ∧ (∀ s : State, s.txData = none → acceptByte s = s)
  ∧ ∀ (c : BitVec 8) (f : Word) (bs : List Byte),
    (Request.cfg c f).data = [] ∧ Request.init.data = [] ∧ (Request.wr c bs).data = bs

/-! ## Abandoned requests (70_reset_and_hazards.md R232) -/

/-- R232: a reset drops `tx_req` and the byte stream; and an answer that arrives for an abandoned request changes nothing, in
any state: a request that is presented by then stays presented, at the same place of its stream and unanswered, and the
history records nothing. (The model's own: that such an answer is a turn of its own, log 4; that it ends the validity of
read data, log 5.) -/
def Obligations.AbandonedRequestsAndTheirAnswers : Prop :=
  (∀ s : State, s.nextTurn = .reset → ∃ t, step s = .next t ∧ t.txReq = false ∧ t.txData = none ∧ t.txDataValid = false)
  ∧ ∀ (s : State) (a : Answer), s.nextTurn = .abandoned a →
    ∃ t, step s = .next t ∧ t = { s with hostRdata := none, agenda := s.agenda.tail }
      ∧ t.txReq = s.txReq ∧ t.txData = s.txData ∧ t.txAnswer = s.txAnswer ∧ t.history = s.history

/-! ## Clock edges (60_exceptions.md R204, R224, 70_reset_and_hazards.md R243) -/

/-- R243, R224: a micro-operation has no cycle count. A clock edge without input at which the sequencer takes no step moves
the delay timer alone and ends the validity of read data; outside a delay it leaves all else as it was, so that the
current micro-operation may still be there after any number of edges. (The model's own: that the number of the sequencer's
steps at an edge is an input of it, log 17; when read data are valid, log 5; the clock cycle as a turn, log 11.) -/
def Obligations.AQuietEdgeNeedNotStepTheSequencer : Prop :=
  ∀ (s : State) (e : Edge), e.pins.rst = false → e.pins.hostValid = false → e.pins.txDataReady = false →
    e.pins.txDone = false → e.steps = 0 →
    step (s.presentEdge e) = .next { clockCycle s with hostRdata := none }
    ∧ (isDelayStep s.stepCode = false → step (s.presentEdge e) = .next { s with hostRdata := none })
end

