-- ==== Sys2Proof/Laws/Decode.lean ====
section
/-! SUPPORT. The fields of a host word, and the words a row of the opcode table selects. -/

namespace Sys2Proof

/-! ## Fields of a host word -/

@[simp] theorem hostWe_hostWord (we : Bool) (addr : HostIndex) (data : Word) : hostWe (hostWord we addr data) = we := by
  simp only [hostWe, hostWord]
  rw [BitVec.getLsbD_append, if_neg (by decide), BitVec.getLsbD_append, if_neg (by decide)]
  cases we <;> rfl

@[simp] theorem hostAddr_hostWord (we : Bool) (addr : HostIndex) (data : Word) :
    hostAddr (hostWord we addr data) = addr := by
  ext i hi
  simp only [hostAddr, hostWord]
  rw [BitVec.getElem_extractLsb', BitVec.getLsbD_append, if_neg (by omega)]
  rw [show 32 + i - 32 = i by omega, BitVec.getLsbD_append, if_pos hi, BitVec.getLsbD_eq_getElem hi]

@[simp] theorem hostData_hostWord (we : Bool) (addr : HostIndex) (data : Word) :
    hostData (hostWord we addr data) = data := by
  ext i hi
  simp only [hostData, hostWord]
  rw [BitVec.getElem_extractLsb', Nat.zero_add, BitVec.getLsbD_append, if_pos hi, BitVec.getLsbD_eq_getElem hi]

/-- A host word is its three fields. -/
theorem hostWord_fields (w : HostWord) : hostWord (hostWe w) (hostAddr w) (hostData w) = w := by
  ext i hi
  simp only [hostWord, hostWe, hostAddr, hostData]
  rw [← BitVec.getLsbD_eq_getElem hi, BitVec.getLsbD_append]
  by_cases h1 : i < 32
  · rw [if_pos h1, BitVec.getLsbD_extractLsb', decide_eq_true h1, Bool.true_and, Nat.zero_add, BitVec.getLsbD_eq_getElem hi]
  · rw [if_neg h1, BitVec.getLsbD_append]
    by_cases h2 : i - 32 < 6
    · rw [if_pos h2, BitVec.getLsbD_extractLsb', decide_eq_true h2, Bool.true_and, show 32 + (i - 32) = i by omega,
        BitVec.getLsbD_eq_getElem hi]
    · have : i = 38 := by omega
      subst this
      simp

/-! ## Selection by a row of the table -/

/-- The number of a host word. -/
theorem hostWord_toNat (we : Bool) (addr : HostIndex) (data : Word) :
    (hostWord we addr data).toNat = (we.toNat * 64 + addr.toNat) * 2 ^ 32 + data.toNat := by
  have ha := addr.isLt
  have hd := data.isLt
  simp only [hostWord, BitVec.toNat_append, BitVec.toNat_ofBool]
  rw [← Nat.shiftLeft_add_eq_or_of_lt hd, ← Nat.shiftLeft_add_eq_or_of_lt ha, Nat.shiftLeft_eq, Nat.shiftLeft_eq]

/-- A mask above bit 32 reads the bits above bit 32 only. -/
theorem land_mask_high (x m : Nat) : x &&& (m * 2 ^ 32) = (x / 2 ^ 32 &&& m) * 2 ^ 32 := by
  rw [← Nat.shiftLeft_eq, ← Nat.shiftLeft_eq, ← Nat.shiftRight_eq_div_pow]
  apply Nat.eq_of_testBit_eq
  intro i
  simp only [Nat.testBit_and, Nat.testBit_shiftLeft, Nat.testBit_shiftRight]
  by_cases h : i ≥ 32
  · simp [h]
  · simp [h]

/-- A row whose mask and match stand above bit 32 selects a host word by `{we, addr}` (30_encoding.md R74). -/
theorem selects_hostWord (name : String) (m v : Nat) (we : Bool) (addr : HostIndex) (data : Word) :
    OpcodeRow.selects ⟨name, m * 2 ^ 32, v * 2 ^ 32⟩ (hostWord we addr data).toNat
      = ((we.toNat * 64 + addr.toNat) &&& m == v) := by
  have hd := data.isLt
  have hdiv : (hostWord we addr data).toNat / 2 ^ 32 = we.toNat * 64 + addr.toNat := by
    rw [hostWord_toNat]
    omega
  simp only [OpcodeRow.selects, land_mask_high, hdiv]
  by_cases h : (we.toNat * 64 + addr.toNat) &&& m = v
  · simp [h]
  · have : ((we.toNat * 64 + addr.toNat) &&& m) * 2 ^ 32 ≠ v * 2 ^ 32 := by
      intro hc
      exact h (Nat.eq_of_mul_eq_mul_right (by decide) hc)
    simp only [beq_eq_false_iff_ne.mpr h, beq_eq_false_iff_ne.mpr this]

/-! ## The STEP codes -/

@[simp] theorem decodeStep_waitStart : decodeStep StepCode.waitStart = .waitStart := rfl
@[simp] theorem decodeStep_check : decodeStep StepCode.check = .check := rfl
@[simp] theorem decodeStep_configure : decodeStep StepCode.configure = .configure := rfl
@[simp] theorem decodeStep_initTransport : decodeStep StepCode.initTransport = .initTransport := rfl
@[simp] theorem decodeStep_passTest : decodeStep StepCode.passTest = .passTest := rfl
@[simp] theorem decodeStep_loadRow : decodeStep StepCode.loadRow = .loadRow := rfl
@[simp] theorem decodeStep_encodeBuf : decodeStep StepCode.encodeBuf = .encodeBuf := rfl
@[simp] theorem decodeStep_txPayload : decodeStep StepCode.txPayload = .txPayload := rfl
@[simp] theorem decodeStep_txLatch : decodeStep StepCode.txLatch = .txLatch := rfl
@[simp] theorem decodeStep_rowDelay : decodeStep StepCode.rowDelay = .rowDelay := rfl
@[simp] theorem decodeStep_rowNext : decodeStep StepCode.rowNext = .rowNext := rfl
@[simp] theorem decodeStep_blankFill : decodeStep StepCode.blankFill = .blankFill := rfl
@[simp] theorem decodeStep_passDelay : decodeStep StepCode.passDelay = .passDelay := rfl
@[simp] theorem decodeStep_passEnd : decodeStep StepCode.passEnd = .passEnd := rfl
@[simp] theorem decodeStep_halt : decodeStep StepCode.halt = .halt := rfl
@[simp] theorem decodeStep_rsvd : decodeStep StepCode.rsvd = .stepRsvd := rfl

end Sys2Proof
end

