-- ==== Sys2Proof/Laws/Memory.lean ====
section
/-! SUPPORT. Byte storage: a read after a write, the canonical form, and reads of a range. -/

namespace Sys2Proof.Machine

/-! ## One byte -/

@[simp] theorem Memory.read_nil (a : Nat) : Memory.read [] a = none := rfl

theorem Memory.read_cons (k : Nat) (v : Byte) (m : Memory) (a : Nat) :
    Memory.read ((k, v) :: m) a = if a = k then some v else Memory.read m a := rfl

/-- A read after a write: the byte written at its address, the byte before elsewhere. -/
theorem Memory.read_write (m : Memory) (a : Nat) (b : Byte) (x : Nat) :
    (m.write a b).read x = if x = a then some b else m.read x := by
  induction m with
  | nil => simp [Memory.write, Memory.read_cons]
  | cons c rest ih =>
    obtain ⟨k, v⟩ := c
    by_cases hlt : a < k
    · simp [Memory.write, hlt, Memory.read_cons]
    · by_cases heq : a = k
      · subst heq
        by_cases hx : x = a <;> simp [Memory.write, Memory.read_cons, hx]
      · simp only [Memory.write, hlt, heq, if_false, Memory.read_cons, ih]
        by_cases hxk : x = k
        · subst hxk
          simp [Ne.symm heq]
        · simp [hxk]

/-- The cells after a write are the cell written and cells that were there. -/
theorem Memory.mem_write {m : Memory} {a : Nat} {b : Byte} {c : Host.Cell} (h : c ∈ m.write a b) :
    c = (a, b) ∨ c ∈ m := by
  induction m with
  | nil => simpa [Memory.write] using h
  | cons d rest ih =>
    obtain ⟨k, v⟩ := d
    by_cases hlt : a < k
    · simpa [Memory.write, hlt] using h
    · by_cases heq : a = k
      · subst heq
        simp only [Memory.write, Nat.lt_irrefl, if_false, if_true, List.mem_cons] at h
        rcases h with h | h <;> simp [h]
      · simp only [Memory.write, hlt, heq, if_false, List.mem_cons] at h
        rcases h with h | h
        · simp [h]
        · rcases ih h with h | h <;> simp [h]

/-- A write keeps the canonical form. -/
theorem Memory.write_wf {m : Memory} (h : m.wf) (a : Nat) (b : Byte) : (m.write a b).wf := by
  induction m with
  | nil => simp [Memory.write, Memory.wf]
  | cons d rest ih =>
    obtain ⟨k, v⟩ := d
    obtain ⟨hall, hrest⟩ := List.pairwise_cons.mp h
    by_cases hlt : a < k
    · simp only [Memory.write, hlt, if_true]
      refine List.pairwise_cons.mpr ⟨fun c hc => ?_, h⟩
      rcases List.mem_cons.mp hc with rfl | hc
      · exact hlt
      · exact Nat.lt_trans hlt (hall c hc)
    · by_cases heq : a = k
      · subst heq
        simp only [Memory.write, hlt, if_false, if_true]
        exact List.pairwise_cons.mpr ⟨hall, hrest⟩
      · simp only [Memory.write, hlt, heq, if_false]
        refine List.pairwise_cons.mpr ⟨fun c hc => ?_, ih hrest⟩
        rcases Memory.mem_write hc with rfl | hc
        · show k < a
          omega
        · exact hall c hc

/-! ## Consecutive bytes -/

/-- A read after a write of consecutive bytes. -/
theorem Memory.read_writeBytes (bs : List Byte) (m : Memory) (base x : Nat) :
    (m.writeBytes base bs).read x = if base ≤ x ∧ x < base + bs.length then bs[x - base]? else m.read x := by
  induction bs generalizing m base with
  | nil =>
    have : ¬(base ≤ x ∧ x < base + ([] : List Byte).length) := by simp
    rw [Memory.writeBytes, if_neg this]
  | cons b bs ih =>
    rw [Memory.writeBytes, ih, Memory.read_write]
    by_cases hx : x = base
    · subst hx
      simp
    · by_cases hin : base ≤ x ∧ x < base + (b :: bs).length
      · have h1 : base + 1 ≤ x ∧ x < base + 1 + bs.length := by
          simp only [List.length_cons] at hin
          omega
        have h2 : x - base = (x - (base + 1)) + 1 := by omega
        rw [if_pos h1, if_pos hin, h2, List.getElem?_cons_succ]
      · have h1 : ¬(base + 1 ≤ x ∧ x < base + 1 + bs.length) := by
          simp only [List.length_cons] at hin
          omega
        rw [if_neg h1, if_neg hin, if_neg hx]

/-- A write of consecutive bytes keeps the canonical form. -/
theorem Memory.writeBytes_wf (bs : List Byte) {m : Memory} (h : m.wf) (base : Nat) : (m.writeBytes base bs).wf := by
  induction bs generalizing m base with
  | nil => exact h
  | cons b bs ih => exact ih (Memory.write_wf h base b) (base + 1)

/-- The cells after a write of consecutive bytes are at the addresses written, or were there. -/
theorem Memory.mem_writeBytes (bs : List Byte) {m : Memory} {base : Nat} {c : Host.Cell}
    (h : c ∈ m.writeBytes base bs) : (base ≤ c.1 ∧ c.1 < base + bs.length) ∨ c ∈ m := by
  induction bs generalizing m base with
  | nil => exact .inr h
  | cons b bs ih =>
    rcases ih h with h | h
    · left
      simp only [List.length_cons]
      omega
    · rcases Memory.mem_write h with rfl | h
      · left
        simp
      · exact .inr h

/-! ## Reads of a range -/

/-- A range reads as `bs` exactly when `bs` has its length and every byte of it reads. -/
theorem readRange_eq_ok {rd : Nat → Except Fault Byte} {base n : Nat} {bs : List Byte} :
    readRange rd base n = .ok bs ↔ bs.length = n ∧ ∀ j, (h : j < bs.length) → rd (base + j) = .ok bs[j] := by
  induction n generalizing base bs with
  | zero =>
    cases bs <;> simp [readRange]
  | succ n ih =>
    constructor
    · intro h
      rw [readRange] at h
      split at h
      · cases h
      · next b hb =>
        split at h
        · cases h
        · next cs hcs =>
          cases h
          obtain ⟨hl, hall⟩ := ih.mp hcs
          refine ⟨by simp [hl], fun j hj => ?_⟩
          cases j with
          | zero => simpa using hb
          | succ j =>
            have := hall j (by simpa using hj)
            simpa [Nat.add_assoc, Nat.add_comm 1 j] using this
    · rintro ⟨hl, hall⟩
      cases bs with
      | nil => simp at hl
      | cons b cs =>
        have hb : rd base = .ok b := hall 0 (Nat.succ_pos _)
        have hcs : readRange rd (base + 1) n = .ok cs := by
          refine ih.mpr ⟨by simpa using hl, fun j hj => ?_⟩
          have := hall (j + 1) (by simpa using hj)
          simpa [Nat.add_assoc, Nat.add_comm 1 j] using this
        simp [readRange, hb, hcs]

/-- A range whose every byte reads is read. -/
theorem readRange_total {rd : Nat → Except Fault Byte} {base n : Nat}
    (h : ∀ j, j < n → ∃ b, rd (base + j) = .ok b) : ∃ bs, readRange rd base n = .ok bs := by
  induction n generalizing base with
  | zero => exact ⟨[], rfl⟩
  | succ n ih =>
    obtain ⟨b, hb⟩ := h 0 (by omega)
    obtain ⟨bs, hbs⟩ := ih (base := base + 1) fun j hj => by
      have := h (j + 1) (by omega)
      simpa [Nat.add_assoc, Nat.add_comm 1 j] using this
    refine ⟨b :: bs, ?_⟩
    simp only [Nat.add_zero] at hb
    simp [readRange, hb, hbs]

/-- A range with a byte that faults faults. -/
theorem readRange_fault {rd : Nat → Except Fault Byte} {base n j : Nat} {f : Fault} (hj : j < n)
    (h : rd (base + j) = .error f) : ∃ f', readRange rd base n = .error f' := by
  cases hr : readRange rd base n with
  | error f' => exact ⟨f', rfl⟩
  | ok bs =>
    obtain ⟨hl, hall⟩ := readRange_eq_ok.mp hr
    rw [hall j (by omega)] at h
    cases h

end Sys2Proof.Machine
end

