-- ==== Sys2Proof/Laws/State.lean ====
section
/-! SUPPORT. One lemma per field per update of the state, each true by unfolding the update once, so that no later proof
unfolds a record update. -/

namespace Sys2Proof.Machine

variable (s : State)

/-! ### control transfer -/

@[simp] theorem goto_cfg (p : Phase) (c : MicroCode) : (s.goto p c).cfg = s.cfg := rfl
@[simp] theorem goto_width (p : Phase) (c : MicroCode) : (s.goto p c).width = s.width := rfl
@[simp] theorem goto_height (p : Phase) (c : MicroCode) : (s.goto p c).height = s.height := rfl
@[simp] theorem goto_repeats (p : Phase) (c : MicroCode) : (s.goto p c).repeats = s.repeats := rfl
@[simp] theorem goto_channel (p : Phase) (c : MicroCode) : (s.goto p c).channel = s.channel := rfl
@[simp] theorem goto_clockHz (p : Phase) (c : MicroCode) : (s.goto p c).clockHz = s.clockHz := rfl
@[simp] theorem goto_rowDelayMs (p : Phase) (c : MicroCode) : (s.goto p c).rowDelayMs = s.rowDelayMs := rfl
@[simp] theorem goto_passDelayMs (p : Phase) (c : MicroCode) : (s.goto p c).passDelayMs = s.passDelayMs := rfl
@[simp] theorem goto_gammaEn (p : Phase) (c : MicroCode) : (s.goto p c).gammaEn = s.gammaEn := rfl
@[simp] theorem goto_state (p : Phase) (c : MicroCode) : (s.goto p c).state = p := rfl
@[simp] theorem goto_stepCode (p : Phase) (c : MicroCode) : (s.goto p c).stepCode = c := rfl
@[simp] theorem goto_row (p : Phase) (c : MicroCode) : (s.goto p c).row = s.row := rfl
@[simp] theorem goto_err (p : Phase) (c : MicroCode) : (s.goto p c).err = s.err := rfl
@[simp] theorem goto_dlyCnt (p : Phase) (c : MicroCode) : (s.goto p c).dlyCnt = s.dlyCnt := rfl
@[simp] theorem goto_presc (p : Phase) (c : MicroCode) : (s.goto p c).presc = s.presc := rfl
@[simp] theorem goto_fsPtr (p : Phase) (c : MicroCode) : (s.goto p c).fsPtr = s.fsPtr := rfl
@[simp] theorem goto_fsOvf (p : Phase) (c : MicroCode) : (s.goto p c).fsOvf = s.fsOvf := rfl
@[simp] theorem goto_fs (p : Phase) (c : MicroCode) : (s.goto p c).fs = s.fs := rfl
@[simp] theorem goto_scratch (p : Phase) (c : MicroCode) : (s.goto p c).scratch = s.scratch := rfl
@[simp] theorem goto_txPending (p : Phase) (c : MicroCode) : (s.goto p c).txPending = s.txPending := rfl
@[simp] theorem goto_txAnswer (p : Phase) (c : MicroCode) : (s.goto p c).txAnswer = s.txAnswer := rfl
@[simp] theorem goto_hostRdata (p : Phase) (c : MicroCode) : (s.goto p c).hostRdata = s.hostRdata := rfl
@[simp] theorem goto_history (p : Phase) (c : MicroCode) : (s.goto p c).history = s.history := rfl
@[simp] theorem goto_agenda (p : Phase) (c : MicroCode) : (s.goto p c).agenda = s.agenda := rfl

/-! ### `STEP <- c` -/

@[simp] theorem goStep_cfg (c : MicroCode) : (s.goStep c).cfg = s.cfg := rfl
@[simp] theorem goStep_width (c : MicroCode) : (s.goStep c).width = s.width := rfl
@[simp] theorem goStep_height (c : MicroCode) : (s.goStep c).height = s.height := rfl
@[simp] theorem goStep_repeats (c : MicroCode) : (s.goStep c).repeats = s.repeats := rfl
@[simp] theorem goStep_channel (c : MicroCode) : (s.goStep c).channel = s.channel := rfl
@[simp] theorem goStep_clockHz (c : MicroCode) : (s.goStep c).clockHz = s.clockHz := rfl
@[simp] theorem goStep_rowDelayMs (c : MicroCode) : (s.goStep c).rowDelayMs = s.rowDelayMs := rfl
@[simp] theorem goStep_passDelayMs (c : MicroCode) : (s.goStep c).passDelayMs = s.passDelayMs := rfl
@[simp] theorem goStep_gammaEn (c : MicroCode) : (s.goStep c).gammaEn = s.gammaEn := rfl
@[simp] theorem goStep_state (c : MicroCode) : (s.goStep c).state = s.state := rfl
@[simp] theorem goStep_stepCode (c : MicroCode) : (s.goStep c).stepCode = c := rfl
@[simp] theorem goStep_row (c : MicroCode) : (s.goStep c).row = s.row := rfl
@[simp] theorem goStep_err (c : MicroCode) : (s.goStep c).err = s.err := rfl
@[simp] theorem goStep_dlyCnt (c : MicroCode) : (s.goStep c).dlyCnt = s.dlyCnt := rfl
@[simp] theorem goStep_presc (c : MicroCode) : (s.goStep c).presc = s.presc := rfl
@[simp] theorem goStep_fsPtr (c : MicroCode) : (s.goStep c).fsPtr = s.fsPtr := rfl
@[simp] theorem goStep_fsOvf (c : MicroCode) : (s.goStep c).fsOvf = s.fsOvf := rfl
@[simp] theorem goStep_fs (c : MicroCode) : (s.goStep c).fs = s.fs := rfl
@[simp] theorem goStep_scratch (c : MicroCode) : (s.goStep c).scratch = s.scratch := rfl
@[simp] theorem goStep_txPending (c : MicroCode) : (s.goStep c).txPending = s.txPending := rfl
@[simp] theorem goStep_txAnswer (c : MicroCode) : (s.goStep c).txAnswer = s.txAnswer := rfl
@[simp] theorem goStep_hostRdata (c : MicroCode) : (s.goStep c).hostRdata = s.hostRdata := rfl
@[simp] theorem goStep_history (c : MicroCode) : (s.goStep c).history = s.history := rfl
@[simp] theorem goStep_agenda (c : MicroCode) : (s.goStep c).agenda = s.agenda := rfl

/-! ### fatal entry -/

@[simp] theorem raiseFatal_cfg (e : ErrCode) : (raiseFatal e s).cfg = s.cfg := rfl
@[simp] theorem raiseFatal_width (e : ErrCode) : (raiseFatal e s).width = s.width := rfl
@[simp] theorem raiseFatal_height (e : ErrCode) : (raiseFatal e s).height = s.height := rfl
@[simp] theorem raiseFatal_repeats (e : ErrCode) : (raiseFatal e s).repeats = s.repeats := rfl
@[simp] theorem raiseFatal_channel (e : ErrCode) : (raiseFatal e s).channel = s.channel := rfl
@[simp] theorem raiseFatal_clockHz (e : ErrCode) : (raiseFatal e s).clockHz = s.clockHz := rfl
@[simp] theorem raiseFatal_rowDelayMs (e : ErrCode) : (raiseFatal e s).rowDelayMs = s.rowDelayMs := rfl
@[simp] theorem raiseFatal_passDelayMs (e : ErrCode) : (raiseFatal e s).passDelayMs = s.passDelayMs := rfl
@[simp] theorem raiseFatal_gammaEn (e : ErrCode) : (raiseFatal e s).gammaEn = s.gammaEn := rfl
@[simp] theorem raiseFatal_state (e : ErrCode) : (raiseFatal e s).state = .failed := rfl
@[simp] theorem raiseFatal_stepCode (e : ErrCode) : (raiseFatal e s).stepCode = StepCode.halt := rfl
@[simp] theorem raiseFatal_row (e : ErrCode) : (raiseFatal e s).row = s.row := rfl
@[simp] theorem raiseFatal_err (e : ErrCode) : (raiseFatal e s).err = e := rfl
@[simp] theorem raiseFatal_dlyCnt (e : ErrCode) : (raiseFatal e s).dlyCnt = s.dlyCnt := rfl
@[simp] theorem raiseFatal_presc (e : ErrCode) : (raiseFatal e s).presc = s.presc := rfl
@[simp] theorem raiseFatal_fsPtr (e : ErrCode) : (raiseFatal e s).fsPtr = s.fsPtr := rfl
@[simp] theorem raiseFatal_fsOvf (e : ErrCode) : (raiseFatal e s).fsOvf = s.fsOvf := rfl
@[simp] theorem raiseFatal_fs (e : ErrCode) : (raiseFatal e s).fs = s.fs := rfl
@[simp] theorem raiseFatal_scratch (e : ErrCode) : (raiseFatal e s).scratch = s.scratch := rfl
@[simp] theorem raiseFatal_txPending (e : ErrCode) : (raiseFatal e s).txPending = s.txPending := rfl
@[simp] theorem raiseFatal_txAnswer (e : ErrCode) : (raiseFatal e s).txAnswer = s.txAnswer := rfl
@[simp] theorem raiseFatal_hostRdata (e : ErrCode) : (raiseFatal e s).hostRdata = s.hostRdata := rfl
@[simp] theorem raiseFatal_history (e : ErrCode) : (raiseFatal e s).history = s.history := rfl
@[simp] theorem raiseFatal_agenda (e : ErrCode) : (raiseFatal e s).agenda = s.agenda := rfl

/-! ### emitting an event -/

@[simp] theorem emit_cfg (e : Event) : (emit e s).cfg = s.cfg := rfl
@[simp] theorem emit_width (e : Event) : (emit e s).width = s.width := rfl
@[simp] theorem emit_height (e : Event) : (emit e s).height = s.height := rfl
@[simp] theorem emit_repeats (e : Event) : (emit e s).repeats = s.repeats := rfl
@[simp] theorem emit_channel (e : Event) : (emit e s).channel = s.channel := rfl
@[simp] theorem emit_clockHz (e : Event) : (emit e s).clockHz = s.clockHz := rfl
@[simp] theorem emit_rowDelayMs (e : Event) : (emit e s).rowDelayMs = s.rowDelayMs := rfl
@[simp] theorem emit_passDelayMs (e : Event) : (emit e s).passDelayMs = s.passDelayMs := rfl
@[simp] theorem emit_gammaEn (e : Event) : (emit e s).gammaEn = s.gammaEn := rfl
@[simp] theorem emit_state (e : Event) : (emit e s).state = s.state := rfl
@[simp] theorem emit_stepCode (e : Event) : (emit e s).stepCode = s.stepCode := rfl
@[simp] theorem emit_row (e : Event) : (emit e s).row = s.row := rfl
@[simp] theorem emit_err (e : Event) : (emit e s).err = s.err := rfl
@[simp] theorem emit_dlyCnt (e : Event) : (emit e s).dlyCnt = s.dlyCnt := rfl
@[simp] theorem emit_presc (e : Event) : (emit e s).presc = s.presc := rfl
@[simp] theorem emit_fsPtr (e : Event) : (emit e s).fsPtr = s.fsPtr := rfl
@[simp] theorem emit_fsOvf (e : Event) : (emit e s).fsOvf = s.fsOvf := rfl
@[simp] theorem emit_fs (e : Event) : (emit e s).fs = s.fs := rfl
@[simp] theorem emit_scratch (e : Event) : (emit e s).scratch = s.scratch := rfl
@[simp] theorem emit_txPending (e : Event) : (emit e s).txPending = s.txPending := rfl
@[simp] theorem emit_txAnswer (e : Event) : (emit e s).txAnswer = s.txAnswer := rfl
@[simp] theorem emit_hostRdata (e : Event) : (emit e s).hostRdata = s.hostRdata := rfl
@[simp] theorem emit_history (e : Event) : (emit e s).history = s.history ++ [e] := rfl
@[simp] theorem emit_agenda (e : Event) : (emit e s).agenda = s.agenda := rfl

/-! ### returning read data -/

@[simp] theorem hostReturn_cfg (v : Word) : (hostReturn v s).cfg = s.cfg := rfl
@[simp] theorem hostReturn_width (v : Word) : (hostReturn v s).width = s.width := rfl
@[simp] theorem hostReturn_height (v : Word) : (hostReturn v s).height = s.height := rfl
@[simp] theorem hostReturn_repeats (v : Word) : (hostReturn v s).repeats = s.repeats := rfl
@[simp] theorem hostReturn_channel (v : Word) : (hostReturn v s).channel = s.channel := rfl
@[simp] theorem hostReturn_clockHz (v : Word) : (hostReturn v s).clockHz = s.clockHz := rfl
@[simp] theorem hostReturn_rowDelayMs (v : Word) : (hostReturn v s).rowDelayMs = s.rowDelayMs := rfl
@[simp] theorem hostReturn_passDelayMs (v : Word) : (hostReturn v s).passDelayMs = s.passDelayMs := rfl
@[simp] theorem hostReturn_gammaEn (v : Word) : (hostReturn v s).gammaEn = s.gammaEn := rfl
@[simp] theorem hostReturn_state (v : Word) : (hostReturn v s).state = s.state := rfl
@[simp] theorem hostReturn_stepCode (v : Word) : (hostReturn v s).stepCode = s.stepCode := rfl
@[simp] theorem hostReturn_row (v : Word) : (hostReturn v s).row = s.row := rfl
@[simp] theorem hostReturn_err (v : Word) : (hostReturn v s).err = s.err := rfl
@[simp] theorem hostReturn_dlyCnt (v : Word) : (hostReturn v s).dlyCnt = s.dlyCnt := rfl
@[simp] theorem hostReturn_presc (v : Word) : (hostReturn v s).presc = s.presc := rfl
@[simp] theorem hostReturn_fsPtr (v : Word) : (hostReturn v s).fsPtr = s.fsPtr := rfl
@[simp] theorem hostReturn_fsOvf (v : Word) : (hostReturn v s).fsOvf = s.fsOvf := rfl
@[simp] theorem hostReturn_fs (v : Word) : (hostReturn v s).fs = s.fs := rfl
@[simp] theorem hostReturn_scratch (v : Word) : (hostReturn v s).scratch = s.scratch := rfl
@[simp] theorem hostReturn_txPending (v : Word) : (hostReturn v s).txPending = s.txPending := rfl
@[simp] theorem hostReturn_txAnswer (v : Word) : (hostReturn v s).txAnswer = s.txAnswer := rfl
@[simp] theorem hostReturn_hostRdata (v : Word) : (hostReturn v s).hostRdata = some v := rfl
@[simp] theorem hostReturn_history (v : Word) : (hostReturn v s).history = s.history := rfl
@[simp] theorem hostReturn_agenda (v : Word) : (hostReturn v s).agenda = s.agenda := rfl

/-! ### the end of a read -/

@[simp] theorem endRead_cfg : s.endRead.cfg = s.cfg := rfl
@[simp] theorem endRead_width : s.endRead.width = s.width := rfl
@[simp] theorem endRead_height : s.endRead.height = s.height := rfl
@[simp] theorem endRead_repeats : s.endRead.repeats = s.repeats := rfl
@[simp] theorem endRead_channel : s.endRead.channel = s.channel := rfl
@[simp] theorem endRead_clockHz : s.endRead.clockHz = s.clockHz := rfl
@[simp] theorem endRead_rowDelayMs : s.endRead.rowDelayMs = s.rowDelayMs := rfl
@[simp] theorem endRead_passDelayMs : s.endRead.passDelayMs = s.passDelayMs := rfl
@[simp] theorem endRead_gammaEn : s.endRead.gammaEn = s.gammaEn := rfl
@[simp] theorem endRead_state : s.endRead.state = s.state := rfl
@[simp] theorem endRead_stepCode : s.endRead.stepCode = s.stepCode := rfl
@[simp] theorem endRead_row : s.endRead.row = s.row := rfl
@[simp] theorem endRead_err : s.endRead.err = s.err := rfl
@[simp] theorem endRead_dlyCnt : s.endRead.dlyCnt = s.dlyCnt := rfl
@[simp] theorem endRead_presc : s.endRead.presc = s.presc := rfl
@[simp] theorem endRead_fsPtr : s.endRead.fsPtr = s.fsPtr := rfl
@[simp] theorem endRead_fsOvf : s.endRead.fsOvf = s.fsOvf := rfl
@[simp] theorem endRead_fs : s.endRead.fs = s.fs := rfl
@[simp] theorem endRead_scratch : s.endRead.scratch = s.scratch := rfl
@[simp] theorem endRead_txPending : s.endRead.txPending = s.txPending := rfl
@[simp] theorem endRead_txAnswer : s.endRead.txAnswer = s.txAnswer := rfl
@[simp] theorem endRead_hostRdata : s.endRead.hostRdata = none := rfl
@[simp] theorem endRead_history : s.endRead.history = s.history := rfl
@[simp] theorem endRead_agenda : s.endRead.agenda = s.agenda := rfl

/-! ### taking a turn off the agenda -/

@[simp] theorem dropTurn_cfg : s.dropTurn.cfg = s.cfg := rfl
@[simp] theorem dropTurn_width : s.dropTurn.width = s.width := rfl
@[simp] theorem dropTurn_height : s.dropTurn.height = s.height := rfl
@[simp] theorem dropTurn_repeats : s.dropTurn.repeats = s.repeats := rfl
@[simp] theorem dropTurn_channel : s.dropTurn.channel = s.channel := rfl
@[simp] theorem dropTurn_clockHz : s.dropTurn.clockHz = s.clockHz := rfl
@[simp] theorem dropTurn_rowDelayMs : s.dropTurn.rowDelayMs = s.rowDelayMs := rfl
@[simp] theorem dropTurn_passDelayMs : s.dropTurn.passDelayMs = s.passDelayMs := rfl
@[simp] theorem dropTurn_gammaEn : s.dropTurn.gammaEn = s.gammaEn := rfl
@[simp] theorem dropTurn_state : s.dropTurn.state = s.state := rfl
@[simp] theorem dropTurn_stepCode : s.dropTurn.stepCode = s.stepCode := rfl
@[simp] theorem dropTurn_row : s.dropTurn.row = s.row := rfl
@[simp] theorem dropTurn_err : s.dropTurn.err = s.err := rfl
@[simp] theorem dropTurn_dlyCnt : s.dropTurn.dlyCnt = s.dlyCnt := rfl
@[simp] theorem dropTurn_presc : s.dropTurn.presc = s.presc := rfl
@[simp] theorem dropTurn_fsPtr : s.dropTurn.fsPtr = s.fsPtr := rfl
@[simp] theorem dropTurn_fsOvf : s.dropTurn.fsOvf = s.fsOvf := rfl
@[simp] theorem dropTurn_fs : s.dropTurn.fs = s.fs := rfl
@[simp] theorem dropTurn_scratch : s.dropTurn.scratch = s.scratch := rfl
@[simp] theorem dropTurn_txPending : s.dropTurn.txPending = s.txPending := rfl
@[simp] theorem dropTurn_txAnswer : s.dropTurn.txAnswer = s.txAnswer := rfl
@[simp] theorem dropTurn_hostRdata : s.dropTurn.hostRdata = s.hostRdata := rfl
@[simp] theorem dropTurn_history : s.dropTurn.history = s.history := rfl
@[simp] theorem dropTurn_agenda : s.dropTurn.agenda = s.agenda.tail := rfl

/-! ### appending to the frame store -/

@[simp] theorem fsAppend_cfg (b : Byte) : (fsAppend b s).cfg = s.cfg := rfl
@[simp] theorem fsAppend_width (b : Byte) : (fsAppend b s).width = s.width := rfl
@[simp] theorem fsAppend_height (b : Byte) : (fsAppend b s).height = s.height := rfl
@[simp] theorem fsAppend_repeats (b : Byte) : (fsAppend b s).repeats = s.repeats := rfl
@[simp] theorem fsAppend_channel (b : Byte) : (fsAppend b s).channel = s.channel := rfl
@[simp] theorem fsAppend_clockHz (b : Byte) : (fsAppend b s).clockHz = s.clockHz := rfl
@[simp] theorem fsAppend_rowDelayMs (b : Byte) : (fsAppend b s).rowDelayMs = s.rowDelayMs := rfl
@[simp] theorem fsAppend_passDelayMs (b : Byte) : (fsAppend b s).passDelayMs = s.passDelayMs := rfl
@[simp] theorem fsAppend_gammaEn (b : Byte) : (fsAppend b s).gammaEn = s.gammaEn := rfl
@[simp] theorem fsAppend_state (b : Byte) : (fsAppend b s).state = s.state := rfl
@[simp] theorem fsAppend_stepCode (b : Byte) : (fsAppend b s).stepCode = s.stepCode := rfl
@[simp] theorem fsAppend_row (b : Byte) : (fsAppend b s).row = s.row := rfl
@[simp] theorem fsAppend_err (b : Byte) : (fsAppend b s).err = s.err := rfl
@[simp] theorem fsAppend_dlyCnt (b : Byte) : (fsAppend b s).dlyCnt = s.dlyCnt := rfl
@[simp] theorem fsAppend_presc (b : Byte) : (fsAppend b s).presc = s.presc := rfl
@[simp] theorem fsAppend_fsPtr (b : Byte) : (fsAppend b s).fsPtr = s.fsPtr + 1#32 := rfl
@[simp] theorem fsAppend_fsOvf (b : Byte) : (fsAppend b s).fsOvf = s.fsOvf := rfl
@[simp] theorem fsAppend_fs (b : Byte) : (fsAppend b s).fs = s.fs.write s.fsPtr.toNat b := rfl
@[simp] theorem fsAppend_scratch (b : Byte) : (fsAppend b s).scratch = s.scratch := rfl
@[simp] theorem fsAppend_txPending (b : Byte) : (fsAppend b s).txPending = s.txPending := rfl
@[simp] theorem fsAppend_txAnswer (b : Byte) : (fsAppend b s).txAnswer = s.txAnswer := rfl
@[simp] theorem fsAppend_hostRdata (b : Byte) : (fsAppend b s).hostRdata = s.hostRdata := rfl
@[simp] theorem fsAppend_history (b : Byte) : (fsAppend b s).history = s.history := rfl
@[simp] theorem fsAppend_agenda (b : Byte) : (fsAppend b s).agenda = s.agenda := rfl

/-! ### FS_RESET -/

@[simp] theorem fsRewind_cfg : (fsRewind s).cfg = s.cfg := rfl
@[simp] theorem fsRewind_width : (fsRewind s).width = s.width := rfl
@[simp] theorem fsRewind_height : (fsRewind s).height = s.height := rfl
@[simp] theorem fsRewind_repeats : (fsRewind s).repeats = s.repeats := rfl
@[simp] theorem fsRewind_channel : (fsRewind s).channel = s.channel := rfl
@[simp] theorem fsRewind_clockHz : (fsRewind s).clockHz = s.clockHz := rfl
@[simp] theorem fsRewind_rowDelayMs : (fsRewind s).rowDelayMs = s.rowDelayMs := rfl
@[simp] theorem fsRewind_passDelayMs : (fsRewind s).passDelayMs = s.passDelayMs := rfl
@[simp] theorem fsRewind_gammaEn : (fsRewind s).gammaEn = s.gammaEn := rfl
@[simp] theorem fsRewind_state : (fsRewind s).state = s.state := rfl
@[simp] theorem fsRewind_stepCode : (fsRewind s).stepCode = s.stepCode := rfl
@[simp] theorem fsRewind_row : (fsRewind s).row = s.row := rfl
@[simp] theorem fsRewind_err : (fsRewind s).err = s.err := rfl
@[simp] theorem fsRewind_dlyCnt : (fsRewind s).dlyCnt = s.dlyCnt := rfl
@[simp] theorem fsRewind_presc : (fsRewind s).presc = s.presc := rfl
@[simp] theorem fsRewind_fsPtr : (fsRewind s).fsPtr = 0#32 := rfl
@[simp] theorem fsRewind_fsOvf : (fsRewind s).fsOvf = false := rfl
@[simp] theorem fsRewind_fs : (fsRewind s).fs = s.fs := rfl
@[simp] theorem fsRewind_scratch : (fsRewind s).scratch = s.scratch := rfl
@[simp] theorem fsRewind_txPending : (fsRewind s).txPending = s.txPending := rfl
@[simp] theorem fsRewind_txAnswer : (fsRewind s).txAnswer = s.txAnswer := rfl
@[simp] theorem fsRewind_hostRdata : (fsRewind s).hostRdata = s.hostRdata := rfl
@[simp] theorem fsRewind_history : (fsRewind s).history = s.history := rfl
@[simp] theorem fsRewind_agenda : (fsRewind s).agenda = s.agenda := rfl

/-! ### A request presented, a byte of it accepted -/

@[simp] theorem issue_cfg (r : Request) : (issue r s).cfg = s.cfg := rfl
@[simp] theorem issue_width (r : Request) : (issue r s).width = s.width := rfl
@[simp] theorem issue_height (r : Request) : (issue r s).height = s.height := rfl
@[simp] theorem issue_repeats (r : Request) : (issue r s).repeats = s.repeats := rfl
@[simp] theorem issue_channel (r : Request) : (issue r s).channel = s.channel := rfl
@[simp] theorem issue_clockHz (r : Request) : (issue r s).clockHz = s.clockHz := rfl
@[simp] theorem issue_rowDelayMs (r : Request) : (issue r s).rowDelayMs = s.rowDelayMs := rfl
@[simp] theorem issue_passDelayMs (r : Request) : (issue r s).passDelayMs = s.passDelayMs := rfl
@[simp] theorem issue_gammaEn (r : Request) : (issue r s).gammaEn = s.gammaEn := rfl
@[simp] theorem issue_state (r : Request) : (issue r s).state = s.state := rfl
@[simp] theorem issue_stepCode (r : Request) : (issue r s).stepCode = s.stepCode := rfl
@[simp] theorem issue_row (r : Request) : (issue r s).row = s.row := rfl
@[simp] theorem issue_err (r : Request) : (issue r s).err = s.err := rfl
@[simp] theorem issue_dlyCnt (r : Request) : (issue r s).dlyCnt = s.dlyCnt := rfl
@[simp] theorem issue_presc (r : Request) : (issue r s).presc = s.presc := rfl
@[simp] theorem issue_fsPtr (r : Request) : (issue r s).fsPtr = s.fsPtr := rfl
@[simp] theorem issue_fsOvf (r : Request) : (issue r s).fsOvf = s.fsOvf := rfl
@[simp] theorem issue_fs (r : Request) : (issue r s).fs = s.fs := rfl
@[simp] theorem issue_scratch (r : Request) : (issue r s).scratch = s.scratch := rfl
@[simp] theorem issue_txPending (r : Request) : (issue r s).txPending = some ⟨r, s.sentOf r⟩ := rfl
@[simp] theorem issue_txAnswer (r : Request) : (issue r s).txAnswer = s.txAnswer := rfl
@[simp] theorem issue_hostRdata (r : Request) : (issue r s).hostRdata = s.hostRdata := rfl
@[simp] theorem issue_history (r : Request) : (issue r s).history = s.history := rfl
@[simp] theorem issue_agenda (r : Request) : (issue r s).agenda = s.agenda := rfl

@[simp] theorem acceptByte_cfg : (acceptByte s).cfg = s.cfg := rfl
@[simp] theorem acceptByte_width : (acceptByte s).width = s.width := rfl
@[simp] theorem acceptByte_height : (acceptByte s).height = s.height := rfl
@[simp] theorem acceptByte_repeats : (acceptByte s).repeats = s.repeats := rfl
@[simp] theorem acceptByte_channel : (acceptByte s).channel = s.channel := rfl
@[simp] theorem acceptByte_clockHz : (acceptByte s).clockHz = s.clockHz := rfl
@[simp] theorem acceptByte_rowDelayMs : (acceptByte s).rowDelayMs = s.rowDelayMs := rfl
@[simp] theorem acceptByte_passDelayMs : (acceptByte s).passDelayMs = s.passDelayMs := rfl
@[simp] theorem acceptByte_gammaEn : (acceptByte s).gammaEn = s.gammaEn := rfl
@[simp] theorem acceptByte_state : (acceptByte s).state = s.state := rfl
@[simp] theorem acceptByte_stepCode : (acceptByte s).stepCode = s.stepCode := rfl
@[simp] theorem acceptByte_row : (acceptByte s).row = s.row := rfl
@[simp] theorem acceptByte_err : (acceptByte s).err = s.err := rfl
@[simp] theorem acceptByte_dlyCnt : (acceptByte s).dlyCnt = s.dlyCnt := rfl
@[simp] theorem acceptByte_presc : (acceptByte s).presc = s.presc := rfl
@[simp] theorem acceptByte_fsPtr : (acceptByte s).fsPtr = s.fsPtr := rfl
@[simp] theorem acceptByte_fsOvf : (acceptByte s).fsOvf = s.fsOvf := rfl
@[simp] theorem acceptByte_fs : (acceptByte s).fs = s.fs := rfl
@[simp] theorem acceptByte_scratch : (acceptByte s).scratch = s.scratch := rfl
@[simp] theorem acceptByte_txPending : (acceptByte s).txPending = s.txPending.map Pending.accept := rfl
@[simp] theorem acceptByte_txAnswer : (acceptByte s).txAnswer = s.txAnswer := rfl
@[simp] theorem acceptByte_hostRdata : (acceptByte s).hostRdata = s.hostRdata := rfl
@[simp] theorem acceptByte_history : (acceptByte s).history = s.history := rfl
@[simp] theorem acceptByte_agenda : (acceptByte s).agenda = s.agenda := rfl

end Sys2Proof.Machine
end

