-- ==== Sys2Proof/Laws/Ops.lean ====
section
/-! SUPPORT. What each shared operation can do, said once. -/

namespace Sys2Proof.Machine

/-! ## Legal pairs -/

theorem onLegalPair_of_mem {c : MicroCode} {s : State} (k : Outcome) (h : s.state ∈ legalPhases c) :
    onLegalPair c s k = k := if_pos h

theorem onLegalPair_of_not_mem {c : MicroCode} {s : State} (k : Outcome) (h : s.state ∉ legalPhases c) :
    onLegalPair c s k = .fault (.illegalPair s.state c) := if_neg h

/-- A micro-operation that answers a next state was found in a state its code may stand in. -/
theorem onLegalPair_next {c : MicroCode} {s t : State} {k : Outcome} (h : onLegalPair c s k = .next t) :
    s.state ∈ legalPhases c ∧ k = .next t := by
  unfold onLegalPair at h
  split at h
  · exact ⟨‹_›, h⟩
  · cases h

@[simp] theorem legalPhases_waitStart : legalPhases StepCode.waitStart = [.idle] := rfl
@[simp] theorem legalPhases_check : legalPhases StepCode.check = [.configuring] := rfl
@[simp] theorem legalPhases_configure : legalPhases StepCode.configure = [.configuring] := rfl
@[simp] theorem legalPhases_initTransport : legalPhases StepCode.initTransport = [.configuring] := rfl
@[simp] theorem legalPhases_passTest : legalPhases StepCode.passTest = [.configuring] := rfl
@[simp] theorem legalPhases_loadRow : legalPhases StepCode.loadRow = [.running] := rfl
@[simp] theorem legalPhases_encodeBuf : legalPhases StepCode.encodeBuf = [.running, .blanking] := rfl
@[simp] theorem legalPhases_txPayload : legalPhases StepCode.txPayload = [.running, .blanking] := rfl
@[simp] theorem legalPhases_txLatch : legalPhases StepCode.txLatch = [.running, .blanking] := rfl
@[simp] theorem legalPhases_rowDelay : legalPhases StepCode.rowDelay = [.running] := rfl
@[simp] theorem legalPhases_rowNext : legalPhases StepCode.rowNext = [.running] := rfl
@[simp] theorem legalPhases_blankFill : legalPhases StepCode.blankFill = [.blanking] := rfl
@[simp] theorem legalPhases_passDelay : legalPhases StepCode.passDelay = [.blanking] := rfl
@[simp] theorem legalPhases_passEnd : legalPhases StepCode.passEnd = [.blanking] := rfl
@[simp] theorem legalPhases_halt : legalPhases StepCode.halt = [.terminated, .failed] := rfl
@[simp] theorem legalPhases_rsvd : legalPhases StepCode.rsvd = [] := rfl

/-! ## Stopping on a fault -/

theorem orFault_ok {α : Type} {v : α} (k : α → Outcome) : orFault (.ok v) k = k v := rfl

theorem orFault_error {α : Type} {f : Fault} (k : α → Outcome) : orFault (.error f) k = .fault f := rfl

theorem orFault_next {α : Type} {x : Except Fault α} {k : α → Outcome} {t : State} (h : orFault x k = .next t) :
    ∃ v, x = .ok v ∧ k v = .next t := by
  cases x with
  | ok v => exact ⟨v, rfl, h⟩
  | error f => cases h

/-! ## Frame store and scratch buffer -/

theorem fsRead_eq_ok {s : State} {a : Nat} {b : Byte} :
    fsRead s a = .ok b ↔ a < s.cfg.fsBytes ∧ a < s.fsPtr.toNat ∧ s.fs.read a = some b := by
  unfold fsRead
  by_cases h1 : a < s.cfg.fsBytes <;> by_cases h2 : a < s.fsPtr.toNat <;> cases h3 : s.fs.read a <;> simp [h1, h2]

theorem scratchRead_eq_ok {s : State} {a : Nat} {b : Byte} :
    scratchRead s a = .ok b ↔ a < 3 * s.cfg.maxLeds ∧ a < s.rowBytes ∧ s.scratch.read a = some b := by
  unfold scratchRead
  by_cases h1 : a < 3 * s.cfg.maxLeds <;> by_cases h2 : a < s.rowBytes <;> cases h3 : s.scratch.read a <;>
    simp [h1, h2]

theorem scratchStore_eq_ok {s t : State} {bs : List Byte} :
    scratchStore s bs = .ok t ↔ bs.length ≤ 3 * s.cfg.maxLeds ∧ t = { s with scratch := s.scratch.writeBytes 0 bs } := by
  unfold scratchStore
  by_cases h : bs.length ≤ 3 * s.cfg.maxLeds <;> simp [h, eq_comm]

/-- What the scratch buffer reads as after a store from index 0. -/
theorem read_writeBytes_zero (bs : List Byte) (m : Memory) (x : Nat) :
    (m.writeBytes 0 bs).read x = if x < bs.length then bs[x]? else m.read x := by
  rw [Memory.read_writeBytes]
  simp

/-! ## Transport requests -/

theorem transact_none {r : Request} {event : Answer → Event} {code : ErrCode} {onOk : State → State} {s : State}
    (h : s.txAnswer = none) : transact r event code onOk s = .next (issue r s) := by
  simp [transact, h]

theorem transact_ok {r : Request} {event : Answer → Event} {code : ErrCode} {onOk : State → State} {s : State}
    (h : s.txAnswer = some .ok) :
    transact r event code onOk s = .next (onOk (emit (event .ok) { s with txPending := none, txAnswer := none })) := by
  simp [transact, h]

theorem transact_err {r : Request} {event : Answer → Event} {code : ErrCode} {onOk : State → State} {s : State}
    (h : s.txAnswer = some .err) :
    transact r event code onOk s
      = .next (raiseFatal code (emit (event .err) { s with txPending := none, txAnswer := none })) := by
  simp [transact, h]

theorem answer_cases (s : State) : s.txAnswer = none ∨ s.txAnswer = some .ok ∨ s.txAnswer = some .err := by
  rcases s.txAnswer with _ | _ | _ <;> simp

/-- A request holds, succeeds or is fatal. -/
theorem transact_next {r : Request} {event : Answer → Event} {code : ErrCode} {onOk : State → State} {s t : State}
    (h : transact r event code onOk s = .next t) :
    (s.txAnswer = none ∧ t = issue r s)
    ∨ (s.txAnswer = some .ok ∧ t = onOk (emit (event .ok) { s with txPending := none, txAnswer := none }))
    ∨ (s.txAnswer = some .err
      ∧ t = raiseFatal code (emit (event .err) { s with txPending := none, txAnswer := none })) := by
  rcases answer_cases s with ha | ha | ha
  · rw [transact_none ha] at h
    exact .inl ⟨ha, (Host.Outcome.next.inj h).symm⟩
  · rw [transact_ok ha] at h
    exact .inr (.inl ⟨ha, (Host.Outcome.next.inj h).symm⟩)
  · rw [transact_err ha] at h
    exact .inr (.inr ⟨ha, (Host.Outcome.next.inj h).symm⟩)

/-- A request keeps its place in the stream if it is pending already, and starts at byte 0 otherwise. -/
theorem sentOf_cases (s : State) (r : Request) :
    s.txPending = some ⟨r, s.sentOf r⟩ ∨ (s.sentOf r = 0 ∧ ∀ n, s.txPending ≠ some ⟨r, n⟩) := by
  unfold State.sentOf
  rcases s.txPending with _ | ⟨q, n⟩
  · exact .inr ⟨rfl, by simp⟩
  · by_cases h : q = r
    · subst h
      exact .inl (by simp)
    · exact .inr ⟨by simp [h], by simp [h]⟩

/-- A stream that has not run past its request does not after the request is presented. -/
theorem sentOf_le {s : State} (r : Request) (h : ∀ p, s.txPending = some p → p.sent ≤ p.request.data.length) :
    s.sentOf r ≤ r.data.length := by
  rcases sentOf_cases s r with hp | ⟨hz, _⟩
  · exact h _ hp
  · omega

theorem issue_of_pending {s : State} {r : Request} {n : Nat} (h : s.txPending = some ⟨r, n⟩) : issue r s = s := by
  have : s.sentOf r = n := by simp [State.sentOf, h]
  unfold issue
  rw [this, ← h]

theorem issue_of_not_pending {s : State} {r : Request} (h : ∀ n, s.txPending ≠ some ⟨r, n⟩) :
    issue r s = { s with txPending := some ⟨r, 0⟩ } := by
  rcases sentOf_cases s r with h' | h'
  · exact absurd h' (h _)
  · unfold issue
    rw [h'.1]

@[simp] theorem accept_request (p : Pending) : p.accept.request = p.request := by
  unfold Pending.accept
  split <;> rfl

theorem accept_sent_le {p : Pending} (h : p.sent ≤ p.request.data.length) :
    p.accept.sent ≤ p.accept.request.data.length := by
  rw [accept_request]
  unfold Pending.accept
  split
  · show p.sent + 1 ≤ _
    omega
  · exact h

/-- Bytes are accepted one by one, from the first on. -/
theorem acceptByte_of_pending {s : State} {r : Request} {n : Nat} (h : s.txPending = some ⟨r, n⟩)
    (hn : n < r.data.length) : acceptByte s = { s with txPending := some ⟨r, n + 1⟩ } := by
  unfold acceptByte
  rw [h]
  simp [Pending.accept, hn]

/-- Where no byte is presented none is accepted. -/
theorem acceptByte_of_no_data {s : State} (h : s.txData = none) : acceptByte s = s := by
  unfold acceptByte
  cases hp : s.txPending with
  | none => rw [Option.map_none, ← hp]
  | some p =>
    simp only [State.txData, hp, Option.bind_some, List.getElem?_eq_none_iff] at h
    rw [Option.map_some, Pending.accept, if_neg (by omega), ← hp]

/-! ## Host port -/

@[simp] theorem whenIdle_idle {f : State → State} {s : State} (h : s.state = .idle) : whenIdle f s = f s := if_pos h

@[simp] theorem whenIdle_locked {f : State → State} {s : State} (h : s.state ≠ .idle) : whenIdle f s = s := if_neg h

/-! ## Delay timer -/

theorem isDelayStep_iff {c : MicroCode} :
    isDelayStep c = true ↔ c = StepCode.rowDelay ∨ c = StepCode.passDelay := by
  simp [isDelayStep]

theorem isTransportStep_iff {c : MicroCode} :
    isTransportStep c = true ↔ c = StepCode.configure ∨ c = StepCode.initTransport ∨ c = StepCode.txPayload
      ∨ c = StepCode.txLatch := by
  simp [isTransportStep, or_assoc]

/-- A tick counts down, in a delay micro-operation with a delay left, or changes nothing. -/
theorem tick_cases (s : State) :
    ((s.state = .running ∨ s.state = .blanking) ∧ isDelayStep s.stepCode = true ∧ 0 < s.dlyCnt.toNat
      ∧ tick s = { s with dlyCnt := s.dlyCnt - 1#16 })
    ∨ tick s = s := by
  unfold tick
  split
  · next h => exact .inl ⟨h.1, h.2.1, h.2.2, rfl⟩
  · exact .inr rfl

/-- A tick changes at most `DLY_CNT`, and that only in a delay micro-operation. -/
theorem tick_frame (s : State) :
    tick s = { s with dlyCnt := (tick s).dlyCnt } ∧ (isDelayStep s.stepCode = false → tick s = s) := by
  rcases tick_cases s with ⟨_, hd, _, h⟩ | h
  · rw [h]
    exact ⟨rfl, fun hf => by simp [hf] at hd⟩
  · rw [h]
    exact ⟨rfl, fun _ => rfl⟩

/-- A clock cycle ticks, advances the prescaler, or changes nothing. -/
theorem clockCycle_cases (s : State) :
    (isDelayStep s.stepCode = true ∧ 0 < s.dlyCnt.toNat ∧ s.presc = s.cfg.cyclesPerMs - 1
      ∧ clockCycle s = tick { s with presc := 0 })
    ∨ (isDelayStep s.stepCode = true ∧ 0 < s.dlyCnt.toNat ∧ s.presc ≠ s.cfg.cyclesPerMs - 1
      ∧ clockCycle s = { s with presc := s.presc + 1 })
    ∨ clockCycle s = s := by
  unfold clockCycle
  split
  · next h =>
    split
    · next hp => exact .inl ⟨h.1, h.2, hp, rfl⟩
    · next hp => exact .inr (.inl ⟨h.1, h.2, hp, rfl⟩)
  · exact .inr (.inr rfl)

/-- A clock cycle changes at most `DLY_CNT` and `PRESC`, and those only in a delay micro-operation. -/
theorem clockCycle_frame (s : State) :
    clockCycle s = { s with dlyCnt := (clockCycle s).dlyCnt, presc := (clockCycle s).presc }
    ∧ (isDelayStep s.stepCode = false → clockCycle s = s) := by
  rcases clockCycle_cases s with ⟨hd, _, _, h⟩ | ⟨hd, _, _, h⟩ | h
  · refine ⟨?_, fun hf => by simp [hf] at hd⟩
    rw [h, (tick_frame { s with presc := 0 }).1]
  · rw [h]
    exact ⟨rfl, fun hf => by simp [hf] at hd⟩
  · rw [h]
    exact ⟨rfl, fun _ => rfl⟩

end Sys2Proof.Machine
end

