-- ==== Sys2Proof/Laws/Exec.lean ====
section
/-! SUPPORT. One inversion lemma per instruction: everything it can do when it answers a next state. And what the agents'
turns can do. The whole-machine proofs cite these and unfold no meaning. -/

namespace Sys2Proof.Machine

variable {s t : State}

/-! ## Micro-operations -/

theorem exec_waitStart_next (h : exec .waitStart s = .next t) : s.state = .idle ∧ t = s := by
  obtain ⟨hp, hk⟩ := onLegalPair_next h
  exact ⟨by simpa using hp, (Host.Outcome.next.inj hk).symm⟩

/-- CHECK passes exactly when the geometry is good and the image fits and is loaded. -/
theorem startCheck_eq_none : startCheck s = none ↔ s.GeometryChecked ∧ s.imageBytes ≤ s.cfg.fsBytes := by
  unfold startCheck
  constructor
  · intro h
    split at h
    · cases h
    · split at h
      · cases h
      · split at h
        · cases h
        · exact ⟨⟨by omega, by omega, by omega, by omega⟩, by omega⟩
  · rintro ⟨⟨h1, h2, h3, h4⟩, h5⟩
    rw [if_neg (by omega), if_neg (by omega), if_neg (by omega)]

theorem startCheck_code {e : ErrCode} (h : startCheck s = some e) : e = .geometry ∨ e = .capacity ∨ e = .truncated := by
  unfold startCheck at h
  split at h
  · simp_all
  · split at h
    · simp_all
    · split at h <;> simp_all

theorem exec_check_next (h : exec .check s = .next t) :
    s.state = .configuring ∧
      ((∃ e, startCheck s = some e ∧ t = raiseFatal e s) ∨ (startCheck s = none ∧ t = s.goStep StepCode.configure)) := by
  obtain ⟨hp, hk⟩ := onLegalPair_next h
  refine ⟨by simpa using hp, ?_⟩
  split at hk
  · next e he => exact .inl ⟨e, he, (Host.Outcome.next.inj hk).symm⟩
  · next he => exact .inr ⟨he, (Host.Outcome.next.inj hk).symm⟩

/-- A request was made: it holds and is pending, or is answered and recorded, and on `Err` fatal. -/
def Requested (r : Request) (event : Answer → Event) (code : ErrCode) (onOk : State → State) (s t : State) : Prop :=
  (s.txAnswer = none ∧ t = issue r s)
  ∨ (s.txAnswer = some .ok ∧ t = onOk (emit (event .ok) { s with txPending := none, txAnswer := none }))
  ∨ (s.txAnswer = some .err
    ∧ t = raiseFatal code (emit (event .err) { s with txPending := none, txAnswer := none }))

theorem exec_configure_next (h : exec .configure s = .next t) :
    s.state = .configuring ∧ Requested (.cfg s.channel s.clockHz) (.configure s.channel s.clockHz) .configure
      (fun u => u.goStep StepCode.initTransport) s t := by
  obtain ⟨hp, hk⟩ := onLegalPair_next h
  exact ⟨by simpa using hp, transact_next hk⟩

theorem exec_initTransport_next (h : exec .initTransport s = .next t) :
    s.state = .configuring ∧ Requested .init .initTransport .initTransport
      (fun u => u.goStep StepCode.passTest) s t := by
  obtain ⟨hp, hk⟩ := onLegalPair_next h
  exact ⟨by simpa using hp, transact_next hk⟩

theorem repeatsPositive_iff {r : Word} : repeatsPositive r = true ↔ 0 < r.toInt := by simp [repeatsPositive]

theorem exec_passTest_next (h : exec .passTest s = .next t) :
    s.state = .configuring ∧
      ((0 < s.repeats.toInt ∧ t = { s with row := 0#16 }.goto .running StepCode.loadRow)
      ∨ (s.repeats.toInt ≤ 0 ∧ t = s.goto .terminated StepCode.halt)) := by
  obtain ⟨hp, hk⟩ := onLegalPair_next h
  refine ⟨by simpa using hp, ?_⟩
  split at hk
  · next hr => exact .inl ⟨repeatsPositive_iff.mp hr, (Host.Outcome.next.inj hk).symm⟩
  · next hr =>
    refine .inr ⟨?_, (Host.Outcome.next.inj hk).symm⟩
    have := mt repeatsPositive_iff.mpr hr
    omega

theorem exec_loadRow_next (h : exec .loadRow s = .next t) :
    s.state = .running ∧ ∃ bs, readRange (fsRead s) s.rowBase s.rowBytes = .ok bs ∧ bs.length = s.rowBytes
      ∧ s.rowBytes ≤ 3 * s.cfg.maxLeds
      ∧ t = { s with
          scratch := s.scratch.writeBytes 0 (bs.map (gammaStage s.gammaEn)), stepCode := StepCode.encodeBuf } := by
  obtain ⟨hp, hk⟩ := onLegalPair_next h
  obtain ⟨bs, hbs, hk⟩ := orFault_next hk
  obtain ⟨u, hu, hk⟩ := orFault_next hk
  obtain ⟨hlen, rfl⟩ := scratchStore_eq_ok.mp hu
  have hl := (readRange_eq_ok.mp hbs).1
  refine ⟨by simpa using hp, bs, hbs, hl, by simpa [hl] using hlen, (Host.Outcome.next.inj hk).symm⟩

theorem length_reorderTriples : ∀ bs : List Byte, (reorderTriples bs).length = bs.length
  | [] => rfl
  | [_] => rfl
  | [_, _] => rfl
  | _ :: _ :: _ :: rest => by simp [reorderTriples, length_reorderTriples rest]

@[simp] theorem length_encodeBuffer (bs : List Byte) : (encodeBuffer bs).length = bs.length := by
  simp [encodeBuffer, length_reorderTriples]

theorem exec_encodeBuf_next (h : exec .encodeBuf s = .next t) :
    (s.state = .running ∨ s.state = .blanking) ∧ ∃ bs, readRange (scratchRead s) 0 s.rowBytes = .ok bs
      ∧ bs.length = s.rowBytes ∧ s.rowBytes ≤ 3 * s.cfg.maxLeds
      ∧ t = { s with scratch := s.scratch.writeBytes 0 (encodeBuffer bs), stepCode := StepCode.txPayload } := by
  obtain ⟨hp, hk⟩ := onLegalPair_next h
  obtain ⟨bs, hbs, hk⟩ := orFault_next hk
  obtain ⟨u, hu, hk⟩ := orFault_next hk
  obtain ⟨hlen, rfl⟩ := scratchStore_eq_ok.mp hu
  have hl := (readRange_eq_ok.mp hbs).1
  refine ⟨by simpa using hp, bs, hbs, hl, by simpa [hl] using hlen, (Host.Outcome.next.inj hk).symm⟩

theorem exec_txPayload_next (h : exec .txPayload s = .next t) :
    (s.state = .running ∨ s.state = .blanking) ∧ ∃ p, readRange (scratchRead s) 0 s.rowBytes = .ok p
      ∧ p.length = s.rowBytes
      ∧ Requested (.wr s.channel p) (.write s.channel p) (if s.state = .running then .rowPayload else .blankPayload)
          (fun u => u.goStep StepCode.txLatch) s t := by
  obtain ⟨hp, hk⟩ := onLegalPair_next h
  obtain ⟨p, hps, hk⟩ := orFault_next hk
  exact ⟨by simpa using hp, p, hps, (readRange_eq_ok.mp hps).1, transact_next hk⟩

theorem exec_txLatch_next (h : exec .txLatch s = .next t) :
    (s.state = .running ∨ s.state = .blanking)
      ∧ Requested (.wr s.channel latch) (.write s.channel latch)
          (if s.state = .running then .rowLatch else .blankLatch) startDelay s t := by
  obtain ⟨hp, hk⟩ := onLegalPair_next h
  exact ⟨by simpa using hp, transact_next hk⟩

theorem exec_rowDelay_next (h : exec .rowDelay s = .next t) :
    s.state = .running ∧
      ((s.dlyCnt = 0#16 ∧ t = (emit (.delayDone s.rowDelayMs) s).goStep StepCode.rowNext)
      ∨ (s.dlyCnt ≠ 0#16 ∧ t = s)) := by
  obtain ⟨hp, hk⟩ := onLegalPair_next h
  refine ⟨by simpa using hp, ?_⟩
  split at hk
  · next hd => exact .inl ⟨hd, (Host.Outcome.next.inj hk).symm⟩
  · next hd => exact .inr ⟨hd, (Host.Outcome.next.inj hk).symm⟩

theorem exec_rowNext_next (h : exec .rowNext s = .next t) :
    s.state = .running ∧
      ((s.row.toNat + 1 < s.height.toNat ∧ t = { s with row := s.row + 1#16 }.goStep StepCode.loadRow)
      ∨ (s.height.toNat ≤ s.row.toNat + 1
        ∧ t = { s with row := s.row + 1#16 }.goto .blanking StepCode.blankFill)) := by
  obtain ⟨hp, hk⟩ := onLegalPair_next h
  refine ⟨by simpa using hp, ?_⟩
  split at hk
  · next hd => exact .inl ⟨hd, (Host.Outcome.next.inj hk).symm⟩
  · next hd => exact .inr ⟨by omega, (Host.Outcome.next.inj hk).symm⟩

theorem exec_blankFill_next (h : exec .blankFill s = .next t) :
    s.state = .blanking ∧ s.rowBytes ≤ 3 * s.cfg.maxLeds
      ∧ t = { s with
          scratch := s.scratch.writeBytes 0 (List.replicate s.rowBytes 0x00#8), stepCode := StepCode.encodeBuf } := by
  obtain ⟨hp, hk⟩ := onLegalPair_next h
  obtain ⟨u, hu, hk⟩ := orFault_next hk
  obtain ⟨hlen, rfl⟩ := scratchStore_eq_ok.mp hu
  exact ⟨by simpa using hp, by simpa using hlen, (Host.Outcome.next.inj hk).symm⟩

theorem exec_passDelay_next (h : exec .passDelay s = .next t) :
    s.state = .blanking ∧
      ((s.dlyCnt = 0#16 ∧ t = (emit (.delayDone s.passDelayMs) s).goStep StepCode.passEnd)
      ∨ (s.dlyCnt ≠ 0#16 ∧ t = s)) := by
  obtain ⟨hp, hk⟩ := onLegalPair_next h
  refine ⟨by simpa using hp, ?_⟩
  split at hk
  · next hd => exact .inl ⟨hd, (Host.Outcome.next.inj hk).symm⟩
  · next hd => exact .inr ⟨hd, (Host.Outcome.next.inj hk).symm⟩

theorem exec_passEnd_next (h : exec .passEnd s = .next t) :
    s.state = .blanking ∧
      ((0 < (s.repeats - 1#32).toInt
        ∧ t = { s with repeats := s.repeats - 1#32, row := 0#16 }.goto .running StepCode.loadRow)
      ∨ ((s.repeats - 1#32).toInt ≤ 0
        ∧ t = { s with repeats := s.repeats - 1#32, row := 0#16 }.goto .terminated StepCode.halt)) := by
  obtain ⟨hp, hk⟩ := onLegalPair_next h
  refine ⟨by simpa using hp, ?_⟩
  split at hk
  · next hr => exact .inl ⟨repeatsPositive_iff.mp hr, (Host.Outcome.next.inj hk).symm⟩
  · next hr =>
    refine .inr ⟨?_, (Host.Outcome.next.inj hk).symm⟩
    have := mt repeatsPositive_iff.mpr hr
    omega

theorem exec_halt_next (h : exec .halt s = .next t) : (s.state = .terminated ∨ s.state = .failed) ∧ t = s := by
  obtain ⟨hp, hk⟩ := onLegalPair_next h
  refine ⟨by simpa using hp, ?_⟩
  split at hk
  · cases hk
  · exact (Host.Outcome.next.inj hk).symm

theorem exec_stepRsvd_next (h : exec .stepRsvd s = .next t) : False := by cases h

/-! ## Host transactions -/

/-- What a host transaction can do in a state: return a value, nothing, or, in `IDLE`, a write's effect. -/
inductive HostEffect (s : State) : State → Prop
  | read (v : Word) : HostEffect s (hostReturn v s)
  | nothing : HostEffect s s
  | ctrl (data : Word) (idle : s.state = .idle) :
      HostEffect s
        (if ctrlStart data then
          (if ctrlFsReset data then fsRewind { s with gammaEn := ctrlGammaEn data }
            else { s with gammaEn := ctrlGammaEn data }).goto .configuring StepCode.check
        else
          if ctrlFsReset data then fsRewind { s with gammaEn := ctrlGammaEn data }
          else { s with gammaEn := ctrlGammaEn data })
  | repeats (v : Word) (idle : s.state = .idle) : HostEffect s { s with repeats := v }
  | width (v : Half) (idle : s.state = .idle) : HostEffect s { s with width := v }
  | height (v : Half) (idle : s.state = .idle) : HostEffect s { s with height := v }
  | channel (v : BitVec 8) (idle : s.state = .idle) : HostEffect s { s with channel := v }
  | clockHz (v : Word) (idle : s.state = .idle) : HostEffect s { s with clockHz := v }
  | rowDelayMs (v : Half) (idle : s.state = .idle) : HostEffect s { s with rowDelayMs := v }
  | passDelayMs (v : Half) (idle : s.state = .idle) : HostEffect s { s with passDelayMs := v }
  | fsData (b : Byte) (idle : s.state = .idle) (room : s.fsPtr.toNat < s.cfg.fsBytes) : HostEffect s (fsAppend b s)
  | overflow (idle : s.state = .idle) (full : s.cfg.fsBytes ≤ s.fsPtr.toNat) : HostEffect s { s with fsOvf := true }

/-- An instruction that is a host transaction. -/
def isHostInstr (i : Instr) : Bool := isHostRead i || isLockedWrite i || isInertWrite i

/-- A host transaction runs in every state, with one of those effects. -/
theorem exec_host {i : Instr} (hi : isHostInstr i = true) (s : State) : ∃ t, exec i s = .next t ∧ HostEffect s t := by
  by_cases hs : s.state = .idle
  · cases i <;> first | (simp [isHostInstr, isHostRead, isLockedWrite, isInertWrite] at hi; done) | skip
    case wrCtrl d => exact ⟨_, rfl, by rw [whenIdle_idle hs]; exact .ctrl d hs⟩
    case wrRepeats d => exact ⟨_, rfl, by rw [whenIdle_idle hs]; exact .repeats _ hs⟩
    case wrWidth d => exact ⟨_, rfl, by rw [whenIdle_idle hs]; exact .width _ hs⟩
    case wrHeight d => exact ⟨_, rfl, by rw [whenIdle_idle hs]; exact .height _ hs⟩
    case wrChannel d => exact ⟨_, rfl, by rw [whenIdle_idle hs]; exact .channel _ hs⟩
    case wrClockHz d => exact ⟨_, rfl, by rw [whenIdle_idle hs]; exact .clockHz _ hs⟩
    case wrRowDelayMs d => exact ⟨_, rfl, by rw [whenIdle_idle hs]; exact .rowDelayMs _ hs⟩
    case wrPassDelayMs d => exact ⟨_, rfl, by rw [whenIdle_idle hs]; exact .passDelayMs _ hs⟩
    case wrFsData d =>
      refine ⟨_, rfl, ?_⟩
      rw [whenIdle_idle hs]
      split
      · next hr => exact .fsData _ hs hr
      · next hr => exact .overflow hs (by omega)
    all_goals first | exact ⟨_, rfl, .nothing⟩ | exact ⟨_, rfl, .read _⟩
  · cases i <;> first | (simp [isHostInstr, isHostRead, isLockedWrite, isInertWrite] at hi; done) | skip
    all_goals first
      | exact ⟨_, rfl, .nothing⟩
      | exact ⟨_, rfl, .read _⟩
      | exact ⟨_, rfl, by rw [whenIdle_locked hs]; exact .nothing⟩

theorem decodeRead_isHostInstr (a : HostIndex) : isHostInstr (decodeRead a) = true := by
  revert a; decide

theorem decodeWrite_isHostInstr (a : HostIndex) (d : Word) : isHostInstr (decodeWrite a d) = true := by
  unfold decodeWrite
  split <;> first | rfl | (split; rfl; split <;> rfl)

/-- Every host word decodes to a host transaction. -/
theorem decodeHost_isHostInstr (w : HostWord) : isHostInstr (decodeHost w) = true := by
  unfold decodeHost
  split
  · exact decodeWrite_isHostInstr _ _
  · exact decodeRead_isHostInstr _

/-- A host turn never stops. -/
theorem hostTurn_next (w : HostWord) (s : State) : ∃ t, hostTurn w s = .next t ∧ HostEffect s.endRead t :=
  exec_host (decodeHost_isHostInstr w) s.endRead

end Sys2Proof.Machine
end

