-- ==== Sys2Proof/Laws/Flags.lean ====
section
/-! SUPPORT. The fields of the STATUS word at their places (10_state.md R41). -/

namespace Sys2Proof.Machine

variable (s : State)

/-- Bit `i` of the STATUS word. -/
theorem statusWord_getLsbD (i : Nat) :
    s.statusWord.getLsbD i =
      if i < 3 then s.state.code.getLsbD i
      else if i < 4 then s.busy
      else if i < 5 then s.done
      else if i < 6 then s.fail
      else if i < 8 then false
      else if i < 12 then s.err.code.getLsbD (i - 8)
      else if i < 13 then s.fsOvf
      else if i < 16 then false
      else if i < 20 then s.stepCode.getLsbD (i - 16)
      else false := by
  have one : ∀ (b : Bool) (j : Nat), (BitVec.ofBool b).getLsbD j = (decide (j < 1) && b) := by
    intro b j
    rcases j with _ | j
    · cases b <;> rfl
    · rw [BitVec.getLsbD_of_ge _ _ (by omega)]
      simp
  unfold State.statusWord
  simp only [BitVec.getLsbD_append, one, BitVec.getLsbD_zero]
  by_cases h0 : i < 3
  · simp [h0]
  by_cases h1 : i < 4
  · simp [h0, h1, show i - 3 < 1 by omega]
  by_cases h2 : i < 5
  · simp [h0, h1, h2, show ¬ i - 3 < 1 by omega, show i - 3 - 1 < 1 by omega]
  by_cases h3 : i < 6
  · simp [h0, h1, h2, h3, show ¬ i - 3 < 1 by omega, show ¬ i - 3 - 1 < 1 by omega, show i - 3 - 1 - 1 < 1 by omega]
  by_cases h4 : i < 8
  · simp [h0, h1, h2, h3, h4, show ¬ i - 3 < 1 by omega, show ¬ i - 3 - 1 < 1 by omega,
      show ¬ i - 3 - 1 - 1 < 1 by omega, show i - 3 - 1 - 1 - 1 < 2 by omega]
  have e0 : ¬ i - 3 < 1 := by omega
  have e1 : ¬ i - 3 - 1 < 1 := by omega
  have e2 : ¬ i - 3 - 1 - 1 < 1 := by omega
  have e3 : ¬ i - 3 - 1 - 1 - 1 < 2 := by omega
  have e4 : i - 3 - 1 - 1 - 1 - 2 = i - 8 := by omega
  simp only [h0, h1, h2, h3, h4, e0, e1, e2, e3, e4, if_false]
  by_cases h5 : i < 12
  · simp [h5, show i - 8 < 4 by omega]
  by_cases h6 : i < 13
  · simp [h5, h6, show ¬ i - 8 < 4 by omega, show i - 8 - 4 < 1 by omega]
  by_cases h7 : i < 16
  · simp [h5, h6, h7, show ¬ i - 8 < 4 by omega, show ¬ i - 8 - 4 < 1 by omega, show i - 8 - 4 - 1 < 3 by omega]
  by_cases h8 : i < 20
  · simp [h5, h6, h7, h8, show ¬ i - 8 < 4 by omega, show ¬ i - 8 - 4 < 1 by omega,
      show ¬ i - 8 - 4 - 1 < 3 by omega, show i - 8 - 4 - 1 - 3 = i - 16 by omega]
    intro _
    omega
  · simp [h5, h6, h7, h8, show ¬ i - 8 < 4 by omega, show ¬ i - 8 - 4 < 1 by omega,
      show ¬ i - 8 - 4 - 1 < 3 by omega, show ¬ i - 8 - 4 - 1 - 3 < 4 by omega]

end Sys2Proof.Machine
end

