-- ==== Sys2Proof/Laws/Step.lean ====
section
/-! SUPPORT. What one step can do, said once, and a run of several. -/

namespace Sys2Proof.Machine

variable {s t : State}

/-- Every step is one of these. A micro-operation runs in the state without its turn and with the read data no longer
valid, with the answer the transport gives or with the one the state already presents. -/
inductive StepEffect (s : State) : State → Prop
  | micro (u t : State) (hu : u = { s with hostRdata := none, agenda := s.agenda.tail, txAnswer := u.txAnswer })
      (ha : u.txAnswer = s.txAnswer ∨ isTransportStep s.stepCode = true)
      (h : exec (decodeStep s.stepCode) u = .next t) : StepEffect s t
  | ignored : StepEffect s { s with hostRdata := none, agenda := s.agenda.tail }
  | accept : StepEffect s (acceptByte { s with agenda := s.agenda.tail })
  | host (t : State) (h : HostEffect { s with hostRdata := none, agenda := s.agenda.tail } t) : StepEffect s t
  | tick : StepEffect s (tick { s with agenda := s.agenda.tail })
  | cycle : StepEffect s (clockCycle { s with agenda := s.agenda.tail })
  | reset (h : s.nextTurn = .reset) : StepEffect s (resetAction { s with agenda := s.agenda.tail })

/-- The inversion of `step`. -/
theorem step_effect (h : step s = .next t) : StepEffect s t := by
  unfold step at h
  cases hn : s.nextTurn with
  | sequencer =>
    rw [hn] at h
    exact .micro s.dropTurn.endRead t rfl (.inl rfl) h
  | transport a =>
    rw [hn] at h
    simp only [runTurn, transportTurn] at h
    split at h
    · next ht => exact .micro { s.dropTurn.endRead with txAnswer := some a } t rfl (.inr ht) h
    · cases h
      exact .ignored
  | abandoned a =>
    rw [hn] at h
    cases h
    exact .ignored
  | txDataReady =>
    rw [hn] at h
    cases h
    exact .accept
  | host w =>
    rw [hn] at h
    obtain ⟨u, hu, he⟩ := hostTurn_next w s.dropTurn
    simp only [runTurn] at h
    rw [hu] at h
    cases h
    exact .host _ he
  | tick =>
    rw [hn] at h
    cases h
    exact .tick
  | cycle =>
    rw [hn] at h
    cases h
    exact .cycle
  | reset =>
    rw [hn] at h
    cases h
    exact .reset hn

/-- The sixteen `STEP` codes. -/
theorem stepCode_cases (c : MicroCode) :
    c = StepCode.waitStart ∨ c = StepCode.check ∨ c = StepCode.configure ∨ c = StepCode.initTransport
    ∨ c = StepCode.passTest ∨ c = StepCode.loadRow ∨ c = StepCode.encodeBuf ∨ c = StepCode.txPayload
    ∨ c = StepCode.txLatch ∨ c = StepCode.rowDelay ∨ c = StepCode.rowNext ∨ c = StepCode.blankFill
    ∨ c = StepCode.passDelay ∨ c = StepCode.passEnd ∨ c = StepCode.halt ∨ c = StepCode.rsvd := by
  revert c; decide

/-! ## Steps by the turn that comes next -/

theorem step_sequencer (h : s.nextTurn = .sequencer) :
    step s = exec (decodeStep s.stepCode) { s with hostRdata := none, agenda := s.agenda.tail } := by
  unfold step
  rw [h]
  rfl

theorem step_transport {a : Answer} (h : s.nextTurn = .transport a) (ht : isTransportStep s.stepCode = true) :
    step s = exec (decodeStep s.stepCode)
      { s with hostRdata := none, agenda := s.agenda.tail, txAnswer := some a } := by
  unfold step
  rw [h]
  simp only [runTurn, transportTurn]
  rw [if_pos (by simpa using ht)]
  rfl

theorem step_abandoned {a : Answer} (h : s.nextTurn = .abandoned a) :
    step s = .next { s with hostRdata := none, agenda := s.agenda.tail } := by
  unfold step
  rw [h]
  rfl

theorem step_host {w : HostWord} (h : s.nextTurn = .host w) :
    step s = exec (decodeHost w) { s with hostRdata := none, agenda := s.agenda.tail } := by
  unfold step
  rw [h]
  rfl

theorem step_txDataReady (h : s.nextTurn = .txDataReady) :
    step s = .next (acceptByte { s with agenda := s.agenda.tail }) := by
  unfold step
  rw [h]
  rfl

theorem step_tick (h : s.nextTurn = .tick) : step s = .next (tick { s with agenda := s.agenda.tail }) := by
  unfold step
  rw [h]
  rfl

theorem step_cycle (h : s.nextTurn = .cycle) : step s = .next (clockCycle { s with agenda := s.agenda.tail }) := by
  unfold step
  rw [h]
  rfl

theorem step_reset (h : s.nextTurn = .reset) : step s = .next (resetAction { s with agenda := s.agenda.tail }) := by
  unfold step
  rw [h]
  rfl

/-! ## Runs -/

theorem run_zero (s : State) : Host.Core.run core 0 s = .next s := rfl

/-- A run whose first step answers a next state goes on from it. -/
theorem run_step (M : Host.Core) {k : Nat} {s t : M.State} (h : M.step s = .next t) : M.run (k + 1) s = M.run k t := by
  simp [Host.Core.run, h]

theorem run_step_fault (M : Host.Core) {k : Nat} {s : M.State} {r : M.Fault} (h : M.step s = .fault r) :
    M.run (k + 1) s = .fault r := by
  simp [Host.Core.run, h]

theorem run_step_refused (M : Host.Core) {k : Nat} {s : M.State} {r : M.Refusal} (h : M.step s = .refused r) :
    M.run (k + 1) s = .refused r := by
  simp [Host.Core.run, h]

theorem run_succ {k : Nat} (h : step s = .next t) : Host.Core.run core (k + 1) s = Host.Core.run core k t :=
  run_step core h

/-- Runs follow one another. -/
theorem run_add {j k : Nat} {u : State} (h1 : Host.Core.run core j s = .next t) (h2 : Host.Core.run core k t = .next u) :
    Host.Core.run core (j + k) s = .next u := by
  induction j generalizing s with
  | zero =>
    cases h1
    simpa using h2
  | succ j ih =>
    cases hs : step s with
    | next s' =>
      rw [run_succ hs] at h1
      rw [Nat.add_right_comm, run_succ hs]
      exact ih h1
    | fault r =>
      cases h1.symm.trans (run_step_fault core hs)
    | refused r =>
      cases h1.symm.trans (run_step_refused core hs)

end Sys2Proof.Machine
end

