-- ==== Sys2Proof/Laws/Forward.lean ====
section
/-! SUPPORT. The meanings from left to right: what an instruction answers where its conditions hold; and what no
micro-operation changes. Laws/Exec.lean says the same from right to left. -/

namespace Sys2Proof.Machine

variable {s t : State}

/-! ## Reading ranges of the two storages -/

theorem range_getElem {rd : Nat → Except Fault Byte} {base n : Nat} {bs : List Byte}
    (h : readRange rd base n = .ok bs) {j : Nat} (hj : j < n) : ∃ b, rd (base + j) = .ok b ∧ bs[j]? = some b := by
  obtain ⟨hl, ha⟩ := readRange_eq_ok.mp h
  exact ⟨bs[j]'(by omega), ha j (by omega), List.getElem?_eq_getElem _⟩

/-- The current row can be read when it lies below `FS_PTR` and all of it has been written. -/
theorem fsRange_ok (h1 : s.rowBase + s.rowBytes ≤ s.fsPtr.toNat) (h2 : s.fsPtr.toNat ≤ s.cfg.fsBytes)
    (h : ∀ j, j < s.rowBytes → (s.fs.read (s.rowBase + j)).isSome) :
    ∃ bs, readRange (fsRead s) s.rowBase s.rowBytes = .ok bs := by
  refine readRange_total fun j hj => ?_
  obtain ⟨b, hb⟩ := Option.isSome_iff_exists.mp (h j hj)
  exact ⟨b, fsRead_eq_ok.mpr ⟨by omega, by omega, hb⟩⟩

/-- A frame can be read from the scratch buffer when `WIDTH ≤ MAX_LEDS` and all of it has been written. -/
theorem scratchRange_ok (hw : s.width.toNat ≤ s.cfg.maxLeds)
    (h : ∀ j, j < s.rowBytes → (s.scratch.read j).isSome) :
    ∃ bs, readRange (scratchRead s) 0 s.rowBytes = .ok bs := by
  refine readRange_total fun j hj => ?_
  obtain ⟨b, hb⟩ := Option.isSome_iff_exists.mp (h j hj)
  have : s.rowBytes = 3 * s.width.toNat := rfl
  exact ⟨b, scratchRead_eq_ok.mpr ⟨by omega, by omega, by rw [Nat.zero_add]; exact hb⟩⟩

/-- The frame read from the scratch buffer is the one that stands there. -/
theorem scratchRange_eq {p : List Byte} (hw : s.width.toNat ≤ s.cfg.maxLeds) (hl : p.length = 3 * s.width.toNat)
    (h : ∀ j, (h : j < p.length) → s.scratch.read j = some p[j]) :
    readRange (scratchRead s) 0 s.rowBytes = .ok p := by
  have : s.rowBytes = 3 * s.width.toNat := rfl
  refine readRange_eq_ok.mpr ⟨hl, fun j hj => scratchRead_eq_ok.mpr ⟨by omega, by omega, ?_⟩⟩
  rw [Nat.zero_add]
  exact h j hj

/-! ## Micro-operations that read or write storage, and the two that send -/

theorem exec_check_eq (h : s.state = .configuring) : exec .check s =
    match startCheck s with
    | some code => .next (raiseFatal code s)
    | none => .next (s.goStep StepCode.configure) := onLegalPair_of_mem _ (by simp [h])

theorem exec_loadRow_eq {bs : List Byte} (hs : s.state = .running)
    (h : readRange (fsRead s) s.rowBase s.rowBytes = .ok bs) (hw : s.rowBytes ≤ 3 * s.cfg.maxLeds) :
    exec .loadRow s = .next { s with
      scratch := s.scratch.writeBytes 0 (bs.map (gammaStage s.gammaEn)), stepCode := StepCode.encodeBuf } := by
  refine (onLegalPair_of_mem _ (by simp [hs])).trans ?_
  have hl := (readRange_eq_ok.mp h).1
  rw [h, orFault_ok, scratchStore_eq_ok.mpr ⟨by simpa [hl] using hw, rfl⟩, orFault_ok]
  rfl

theorem exec_encodeBuf_eq {bs : List Byte} (hs : s.state = .running ∨ s.state = .blanking)
    (h : readRange (scratchRead s) 0 s.rowBytes = .ok bs) (hw : s.rowBytes ≤ 3 * s.cfg.maxLeds) :
    exec .encodeBuf s = .next { s with
      scratch := s.scratch.writeBytes 0 (encodeBuffer bs), stepCode := StepCode.txPayload } := by
  refine (onLegalPair_of_mem _ (by simpa using hs)).trans ?_
  have hl := (readRange_eq_ok.mp h).1
  rw [h, orFault_ok, scratchStore_eq_ok.mpr ⟨by simpa [hl] using hw, rfl⟩, orFault_ok]
  rfl

theorem exec_blankFill_eq (hs : s.state = .blanking) (hw : s.rowBytes ≤ 3 * s.cfg.maxLeds) :
    exec .blankFill s = .next { s with
      scratch := s.scratch.writeBytes 0 (List.replicate s.rowBytes 0x00#8), stepCode := StepCode.encodeBuf } := by
  refine (onLegalPair_of_mem _ (by simp [hs])).trans ?_
  rw [scratchStore_eq_ok.mpr ⟨by simpa using hw, rfl⟩, orFault_ok]
  rfl

theorem exec_txPayload_eq {p : List Byte} (hs : s.state = .running ∨ s.state = .blanking)
    (h : readRange (scratchRead s) 0 s.rowBytes = .ok p) :
    exec .txPayload s = transact (.wr s.channel p) (.write s.channel p)
      (if s.state = .running then .rowPayload else .blankPayload) (fun u => u.goStep StepCode.txLatch) s := by
  refine (onLegalPair_of_mem _ (by simpa using hs)).trans ?_
  rw [h, orFault_ok]

theorem exec_txLatch_eq (hs : s.state = .running ∨ s.state = .blanking) :
    exec .txLatch s = transact (.wr s.channel latch) (.write s.channel latch)
      (if s.state = .running then .rowLatch else .blankLatch) startDelay s :=
  onLegalPair_of_mem _ (by simpa using hs)

/-- A request always answers a next state. -/
theorem transact_total {r : Request} {event : Answer → Event} {code : ErrCode} {onOk : State → State} (s : State) :
    ∃ t, transact r event code onOk s = .next t := by
  rcases answer_cases s with h | h | h
  · exact ⟨_, transact_none h⟩
  · exact ⟨_, transact_ok h⟩
  · exact ⟨_, transact_err h⟩

/-! ## Counting -/

theorem row_succ_toNat {r h : Half} (hr : r.toNat < h.toNat) : (r + 1#16).toNat = r.toNat + 1 := by
  have := h.isLt
  simp only [BitVec.toNat_add, BitVec.toNat_ofNat]
  omega

theorem repeats_pred_toInt {r : Word} (h : 1 ≤ r.toInt) : (r - 1#32).toInt = r.toInt - 1 := by
  have := BitVec.toInt_lt (x := r)
  rw [BitVec.toInt_sub]
  simp only [Int.bmod]
  norm_num at *
  omega

theorem dly_pred_toNat {d : Half} (h : 0 < d.toNat) : (d - 1#16).toNat = d.toNat - 1 := by
  have := d.isLt
  simp only [BitVec.toNat_sub, BitVec.toNat_ofNat]
  omega

theorem dly_eq_zero {d : Half} : d = 0#16 ↔ d.toNat = 0 :=
  ⟨fun h => by rw [h]; rfl, fun h => BitVec.eq_of_toNat_eq h⟩

/-! ## What no micro-operation changes -/

/-- The configuration but `REPEATS`, the frame store and its port, the parameters, and the model's own fields. -/
structure Kept (u t : State) : Prop where
  fs : t.fs = u.fs
  fsPtr : t.fsPtr = u.fsPtr
  fsOvf : t.fsOvf = u.fsOvf
  width : t.width = u.width
  height : t.height = u.height
  channel : t.channel = u.channel
  clockHz : t.clockHz = u.clockHz
  rowDelayMs : t.rowDelayMs = u.rowDelayMs
  passDelayMs : t.passDelayMs = u.passDelayMs
  gammaEn : t.gammaEn = u.gammaEn
  cfg : t.cfg = u.cfg
  agenda : t.agenda = u.agenda
  hostRdata : t.hostRdata = u.hostRdata

theorem micro_kept {c : MicroCode} {u t : State} (h : exec (decodeStep c) u = .next t) :
    Kept u t ∧ (t.repeats ≠ u.repeats → u.state = .blanking ∧ c = StepCode.passEnd) := by
  rcases stepCode_cases c with e | e | e | e | e | e | e | e | e | e | e | e | e | e | e | e <;> subst e
  · obtain ⟨_, rfl⟩ := exec_waitStart_next h
    exact ⟨by constructor <;> rfl, fun hn => absurd rfl hn⟩
  · obtain ⟨_, ⟨_, _, rfl⟩ | ⟨_, rfl⟩⟩ := exec_check_next h <;>
      exact ⟨by constructor <;> rfl, fun hn => absurd rfl hn⟩
  · obtain ⟨_, ⟨_, rfl⟩ | ⟨_, rfl⟩ | ⟨_, rfl⟩⟩ := exec_configure_next h <;>
      exact ⟨by constructor <;> rfl, fun hn => absurd rfl hn⟩
  · obtain ⟨_, ⟨_, rfl⟩ | ⟨_, rfl⟩ | ⟨_, rfl⟩⟩ := exec_initTransport_next h <;>
      exact ⟨by constructor <;> rfl, fun hn => absurd rfl hn⟩
  · obtain ⟨_, ⟨_, rfl⟩ | ⟨_, rfl⟩⟩ := exec_passTest_next h <;>
      exact ⟨by constructor <;> rfl, fun hn => absurd rfl hn⟩
  · obtain ⟨_, _, _, _, _, rfl⟩ := exec_loadRow_next h
    exact ⟨by constructor <;> rfl, fun hn => absurd rfl hn⟩
  · obtain ⟨_, _, _, _, _, rfl⟩ := exec_encodeBuf_next h
    exact ⟨by constructor <;> rfl, fun hn => absurd rfl hn⟩
  · obtain ⟨_, _, _, _, ⟨_, rfl⟩ | ⟨_, rfl⟩ | ⟨_, rfl⟩⟩ := exec_txPayload_next h <;>
      exact ⟨by constructor <;> rfl, fun hn => absurd rfl hn⟩
  · obtain ⟨_, ⟨_, rfl⟩ | ⟨_, rfl⟩ | ⟨_, rfl⟩⟩ := exec_txLatch_next h
    · exact ⟨by constructor <;> rfl, fun hn => absurd rfl hn⟩
    · unfold startDelay
      split <;> exact ⟨by constructor <;> rfl, fun hn => absurd rfl hn⟩
    · exact ⟨by constructor <;> rfl, fun hn => absurd rfl hn⟩
  · obtain ⟨_, ⟨_, rfl⟩ | ⟨_, rfl⟩⟩ := exec_rowDelay_next h <;>
      exact ⟨by constructor <;> rfl, fun hn => absurd rfl hn⟩
  · obtain ⟨_, ⟨_, rfl⟩ | ⟨_, rfl⟩⟩ := exec_rowNext_next h <;>
      exact ⟨by constructor <;> rfl, fun hn => absurd rfl hn⟩
  · obtain ⟨_, _, rfl⟩ := exec_blankFill_next h
    exact ⟨by constructor <;> rfl, fun hn => absurd rfl hn⟩
  · obtain ⟨_, ⟨_, rfl⟩ | ⟨_, rfl⟩⟩ := exec_passDelay_next h <;>
      exact ⟨by constructor <;> rfl, fun hn => absurd rfl hn⟩
  · obtain ⟨hp, ⟨_, rfl⟩ | ⟨_, rfl⟩⟩ := exec_passEnd_next h <;>
      exact ⟨by constructor <;> rfl, fun _ => ⟨hp, rfl⟩⟩
  · obtain ⟨_, rfl⟩ := exec_halt_next h
    exact ⟨by constructor <;> rfl, fun hn => absurd rfl hn⟩
  · exact (exec_stepRsvd_next h).elim

/-! ## Steps by the head of the agenda -/

theorem nextTurn_of {x : Turn} {rest : List Turn} (h : s.agenda = x :: rest) : s.nextTurn = x := by
  unfold State.nextTurn
  rw [h]
  rfl

theorem step_sequencer_of {rest : List Turn} (h : s.agenda = .sequencer :: rest) :
    step s = exec (decodeStep s.stepCode) { s with hostRdata := none, agenda := rest } := by
  rw [step_sequencer (nextTurn_of h), h]
  rfl

theorem step_transport_of {a : Answer} {rest : List Turn} (h : s.agenda = .transport a :: rest)
    (ht : isTransportStep s.stepCode = true) :
    step s = exec (decodeStep s.stepCode) { s with hostRdata := none, agenda := rest, txAnswer := some a } := by
  rw [step_transport (nextTurn_of h) ht, h]
  rfl

theorem step_tick_of {rest : List Turn} (h : s.agenda = .tick :: rest) :
    step s = .next (tick { s with agenda := rest }) := by
  rw [step_tick (nextTurn_of h), h]
  rfl

/-! ## The transmit protocol -/

theorem Protocol.after_append (p : Protocol) (h : List Event) (e : Event) :
    Protocol.after p (h ++ [e]) = (Protocol.after p h).bind fun q => q.next e := by
  induction h generalizing p with
  | nil =>
    simp only [List.nil_append, Protocol.after, Option.bind_some]
    cases p.next e <;> rfl
  | cons x xs ih =>
    simp only [List.cons_append, Protocol.after]
    cases p.next x with
    | none => rfl
    | some q => exact ih q

/-- A write in order is a payload where one is due, or the latch of the payload before it. -/
theorem Protocol.next_write {p r : Protocol} {c : BitVec 8} {bs : List Byte} {a : Answer}
    (h : p.next (.write c bs a) = some r) :
    (p = .ready ∧ isPayload bs = true ∧ r = if a = .ok then .owesLatch c else .dead)
    ∨ (p = .owesLatch c ∧ bs = latch ∧ r = if a = .ok then .owesDelay else .dead) := by
  cases p with
  | ready =>
    have h : (if isPayload bs then some (if a = .ok then Protocol.owesLatch c else .dead) else none) = some r := h
    split at h
    · next hp => exact .inl ⟨rfl, hp, (Option.some.inj h).symm⟩
    · cases h
  | owesLatch c' =>
    have h : (if c = c' ∧ bs = latch then some (if a = .ok then Protocol.owesDelay else .dead) else none) = some r := h
    split at h
    · next hp => exact .inr ⟨by rw [hp.1], hp.2, (Option.some.inj h).symm⟩
    · cases h
  | _ => cases h

end Sys2Proof.Machine
end

