-- ==== Sys2Proof/Laws/PerInstr.lean ====
section
/-! SUPPORT. Laws stated for every instruction, one lemma per constructor. The family RowMatch: the code of a well-formed
instruction is a word that its row of spec/opcode_table.json selects by mask and match. -/

namespace Sys2Proof.Laws.RowMatch

/-- The number of a code, and the rows of its encoding space. -/
def bits : Code → Nat
  | .step c => c.toNat
  | .host w => w.toNat

def rows : Code → List OpcodeRow
  | .step _ => stepRows
  | .host _ => hostRows

/-- The row of the instruction's own mnemonic selects its code. -/
def Statement (i : Instr) : Prop :=
  i.wf = true → ∃ r ∈ rows (encode i), r.mnemonic = i.mnemonic ∧ r.selects (bits (encode i)) = true

/-- A host row whose mask and match stand above bit 32, and which selects the transaction's `{we, addr}`. -/
theorem of_host_row {i : Instr} (name : String) (we : Bool) (index : HostIndex) (data : Word) (m v : Nat)
    (hname : i.mnemonic = name) (henc : encode i = .host (hostWord we index data))
    (hrow : (⟨name, m * 2 ^ 32, v * 2 ^ 32⟩ : OpcodeRow) ∈ hostRows)
    (hsel : i.wf = true → (we.toNat * 64 + index.toNat) &&& m = v) : Statement i := by
  intro hwf
  refine ⟨_, by rw [henc]; exact hrow, hname.symm, ?_⟩
  rw [henc, bits, selects_hostWord]
  simp [hsel hwf]

theorem waitStart : Statement .waitStart := fun _ => ⟨⟨"WAIT_START", 0xF, 0x0⟩, by decide, rfl, by decide⟩
theorem check : Statement .check := fun _ => ⟨⟨"CHECK", 0xF, 0x1⟩, by decide, rfl, by decide⟩
theorem configure : Statement .configure := fun _ => ⟨⟨"CONFIGURE", 0xF, 0x2⟩, by decide, rfl, by decide⟩
theorem initTransport : Statement .initTransport := fun _ => ⟨⟨"INITIALIZE", 0xF, 0x3⟩, by decide, rfl, by decide⟩
theorem passTest : Statement .passTest := fun _ => ⟨⟨"PASS_TEST", 0xF, 0x4⟩, by decide, rfl, by decide⟩
theorem loadRow : Statement .loadRow := fun _ => ⟨⟨"LOAD_ROW", 0xF, 0x5⟩, by decide, rfl, by decide⟩
theorem encodeBuf : Statement .encodeBuf := fun _ => ⟨⟨"ENCODE", 0xF, 0x6⟩, by decide, rfl, by decide⟩
theorem txPayload : Statement .txPayload := fun _ => ⟨⟨"TX_PAYLOAD", 0xF, 0x7⟩, by decide, rfl, by decide⟩
theorem txLatch : Statement .txLatch := fun _ => ⟨⟨"TX_LATCH", 0xF, 0x8⟩, by decide, rfl, by decide⟩
theorem rowDelay : Statement .rowDelay := fun _ => ⟨⟨"ROW_DELAY", 0xF, 0x9⟩, by decide, rfl, by decide⟩
theorem rowNext : Statement .rowNext := fun _ => ⟨⟨"ROW_NEXT", 0xF, 0xA⟩, by decide, rfl, by decide⟩
theorem blankFill : Statement .blankFill := fun _ => ⟨⟨"BLANK_FILL", 0xF, 0xB⟩, by decide, rfl, by decide⟩
theorem passDelay : Statement .passDelay := fun _ => ⟨⟨"PASS_DELAY", 0xF, 0xC⟩, by decide, rfl, by decide⟩
theorem passEnd : Statement .passEnd := fun _ => ⟨⟨"PASS_END", 0xF, 0xD⟩, by decide, rfl, by decide⟩
theorem halt : Statement .halt := fun _ => ⟨⟨"HALT", 0xF, 0xE⟩, by decide, rfl, by decide⟩
theorem stepRsvd : Statement .stepRsvd := fun _ => ⟨⟨"STEP_RSVD", 0xF, 0xF⟩, by decide, rfl, by decide⟩

theorem rdCtrl : Statement .rdCtrl :=
  of_host_row "RD_CTRL" false 0 0 0x7F 0x00 rfl rfl (by decide) (fun _ => by decide)
theorem wrCtrl (data : Word) : Statement (.wrCtrl data) :=
  of_host_row "WR_CTRL" true 0 data 0x7F 0x40 rfl rfl (by decide) (fun _ => by decide)
theorem rdStatus : Statement .rdStatus :=
  of_host_row "RD_STATUS" false 1 0 0x7F 0x01 rfl rfl (by decide) (fun _ => by decide)
theorem wrStatus (data : Word) : Statement (.wrStatus data) :=
  of_host_row "WR_STATUS" true 1 data 0x7F 0x41 rfl rfl (by decide) (fun _ => by decide)
theorem rdRepeats : Statement .rdRepeats :=
  of_host_row "RD_REPEATS" false 2 0 0x7F 0x02 rfl rfl (by decide) (fun _ => by decide)
theorem wrRepeats (data : Word) : Statement (.wrRepeats data) :=
  of_host_row "WR_REPEATS" true 2 data 0x7F 0x42 rfl rfl (by decide) (fun _ => by decide)
theorem rdWidth : Statement .rdWidth :=
  of_host_row "RD_WIDTH" false 3 0 0x7F 0x03 rfl rfl (by decide) (fun _ => by decide)
theorem wrWidth (data : Word) : Statement (.wrWidth data) :=
  of_host_row "WR_WIDTH" true 3 data 0x7F 0x43 rfl rfl (by decide) (fun _ => by decide)
theorem rdHeight : Statement .rdHeight :=
  of_host_row "RD_HEIGHT" false 4 0 0x7F 0x04 rfl rfl (by decide) (fun _ => by decide)
theorem wrHeight (data : Word) : Statement (.wrHeight data) :=
  of_host_row "WR_HEIGHT" true 4 data 0x7F 0x44 rfl rfl (by decide) (fun _ => by decide)
theorem rdChannel : Statement .rdChannel :=
  of_host_row "RD_CHANNEL" false 5 0 0x7F 0x05 rfl rfl (by decide) (fun _ => by decide)
theorem wrChannel (data : Word) : Statement (.wrChannel data) :=
  of_host_row "WR_CHANNEL" true 5 data 0x7F 0x45 rfl rfl (by decide) (fun _ => by decide)
theorem rdClockHz : Statement .rdClockHz :=
  of_host_row "RD_CLOCK_HZ" false 6 0 0x7F 0x06 rfl rfl (by decide) (fun _ => by decide)
theorem wrClockHz (data : Word) : Statement (.wrClockHz data) :=
  of_host_row "WR_CLOCK_HZ" true 6 data 0x7F 0x46 rfl rfl (by decide) (fun _ => by decide)
theorem rdRowDelayMs : Statement .rdRowDelayMs :=
  of_host_row "RD_ROW_DELAY_MS" false 7 0 0x7F 0x07 rfl rfl (by decide) (fun _ => by decide)
theorem wrRowDelayMs (data : Word) : Statement (.wrRowDelayMs data) :=
  of_host_row "WR_ROW_DELAY_MS" true 7 data 0x7F 0x47 rfl rfl (by decide) (fun _ => by decide)
theorem rdPassDelayMs : Statement .rdPassDelayMs :=
  of_host_row "RD_PASS_DELAY_MS" false 8 0 0x7F 0x08 rfl rfl (by decide) (fun _ => by decide)
theorem wrPassDelayMs (data : Word) : Statement (.wrPassDelayMs data) :=
  of_host_row "WR_PASS_DELAY_MS" true 8 data 0x7F 0x48 rfl rfl (by decide) (fun _ => by decide)
theorem rdRow : Statement .rdRow :=
  of_host_row "RD_ROW" false 9 0 0x7F 0x09 rfl rfl (by decide) (fun _ => by decide)
theorem wrRow (data : Word) : Statement (.wrRow data) :=
  of_host_row "WR_ROW" true 9 data 0x7F 0x49 rfl rfl (by decide) (fun _ => by decide)
theorem rdFsPtr : Statement .rdFsPtr :=
  of_host_row "RD_FS_PTR" false 10 0 0x7F 0x0A rfl rfl (by decide) (fun _ => by decide)
theorem wrFsPtr (data : Word) : Statement (.wrFsPtr data) :=
  of_host_row "WR_FS_PTR" true 10 data 0x7F 0x4A rfl rfl (by decide) (fun _ => by decide)
theorem rdFsData : Statement .rdFsData :=
  of_host_row "RD_FS_DATA" false 11 0 0x7F 0x0B rfl rfl (by decide) (fun _ => by decide)
theorem wrFsData (data : Word) : Statement (.wrFsData data) :=
  of_host_row "WR_FS_DATA" true 11 data 0x7F 0x4B rfl rfl (by decide) (fun _ => by decide)

theorem within_rd12to15 : ∀ k : HostIndex, indexWithin 12 15 k = true →
    (false.toNat * 64 + k.toNat) &&& 0x7C = 0x0C := by decide
theorem within_wr12to15 : ∀ k : HostIndex, indexWithin 12 15 k = true →
    (true.toNat * 64 + k.toNat) &&& 0x7C = 0x4C := by decide
theorem within_rd16to31 : ∀ k : HostIndex, indexWithin 16 31 k = true →
    (false.toNat * 64 + k.toNat) &&& 0x70 = 0x10 := by decide
theorem within_wr16to31 : ∀ k : HostIndex, indexWithin 16 31 k = true →
    (true.toNat * 64 + k.toNat) &&& 0x70 = 0x50 := by decide
theorem within_rd32to63 : ∀ k : HostIndex, indexWithin 32 63 k = true →
    (false.toNat * 64 + k.toNat) &&& 0x60 = 0x20 := by decide
theorem within_wr32to63 : ∀ k : HostIndex, indexWithin 32 63 k = true →
    (true.toNat * 64 + k.toNat) &&& 0x60 = 0x60 := by decide
theorem rdRsvd12to15 (index : HostIndex) : Statement (.rdRsvd12to15 index) :=
  of_host_row "RD_RSVD_12_15" false index 0 0x7C 0x0C rfl rfl (by decide) (within_rd12to15 index)
theorem wrRsvd12to15 (index : HostIndex) (data : Word) : Statement (.wrRsvd12to15 index data) :=
  of_host_row "WR_RSVD_12_15" true index data 0x7C 0x4C rfl rfl (by decide) (within_wr12to15 index)
theorem rdRsvd16to31 (index : HostIndex) : Statement (.rdRsvd16to31 index) :=
  of_host_row "RD_RSVD_16_31" false index 0 0x70 0x10 rfl rfl (by decide) (within_rd16to31 index)
theorem wrRsvd16to31 (index : HostIndex) (data : Word) : Statement (.wrRsvd16to31 index data) :=
  of_host_row "WR_RSVD_16_31" true index data 0x70 0x50 rfl rfl (by decide) (within_wr16to31 index)
theorem rdRsvd32to63 (index : HostIndex) : Statement (.rdRsvd32to63 index) :=
  of_host_row "RD_RSVD_32_63" false index 0 0x60 0x20 rfl rfl (by decide) (within_rd32to63 index)
theorem wrRsvd32to63 (index : HostIndex) (data : Word) : Statement (.wrRsvd32to63 index data) :=
  of_host_row "WR_RSVD_32_63" true index data 0x60 0x60 rfl rfl (by decide) (within_wr32to63 index)

end Sys2Proof.Laws.RowMatch
end

