-- ==== Sys2Proof/Tests/Slice0.lean ====
section
/-! SUPPORT. The model's own tests. Expected results are those of 95_test_vectors.md and words written out from
30_encoding.md R71, R74 and R75; each test is one step or one pure function. Then one witness per obligation that has
hypotheses: concrete values that meet them together, clause by clause, at the boundaries. -/

namespace Sys2Proof.Tests

open Sys2Proof Sys2Proof.Machine

/-! ## Well-formedness: an index outside its row's range is refused -/

theorem test_wf_refuses_rdRsvd12to15 : (Instr.rdRsvd12to15 16#6).wf = false ∧ (Instr.rdRsvd12to15 11#6).wf = false := by
  decide
theorem test_wf_refuses_rdRsvd16to31 : (Instr.rdRsvd16to31 15#6).wf = false ∧ (Instr.rdRsvd16to31 32#6).wf = false := by
  decide
theorem test_wf_refuses_rdRsvd32to63 : (Instr.rdRsvd32to63 31#6).wf = false := by decide
theorem test_wf_refuses_wrRsvd12to15 :
    (Instr.wrRsvd12to15 16#6 0#32).wf = false ∧ (Instr.wrRsvd12to15 11#6 0#32).wf = false := by decide
theorem test_wf_refuses_wrRsvd16to31 :
    (Instr.wrRsvd16to31 15#6 0#32).wf = false ∧ (Instr.wrRsvd16to31 32#6 0#32).wf = false := by decide
theorem test_wf_refuses_wrRsvd32to63 : (Instr.wrRsvd32to63 31#6 0#32).wf = false := by decide

/-! ## Decoding: every constructor, from its code in R71 or its word index in R75 -/

theorem test_decode_micro_ops :
    decode (.step 0b0000#4) = .waitStart ∧ decode (.step 0b0001#4) = .check ∧ decode (.step 0b0010#4) = .configure
    ∧ decode (.step 0b0011#4) = .initTransport ∧ decode (.step 0b0100#4) = .passTest
    ∧ decode (.step 0b0101#4) = .loadRow ∧ decode (.step 0b0110#4) = .encodeBuf
    ∧ decode (.step 0b0111#4) = .txPayload ∧ decode (.step 0b1000#4) = .txLatch
    ∧ decode (.step 0b1001#4) = .rowDelay ∧ decode (.step 0b1010#4) = .rowNext
    ∧ decode (.step 0b1011#4) = .blankFill ∧ decode (.step 0b1100#4) = .passDelay
    ∧ decode (.step 0b1101#4) = .passEnd ∧ decode (.step 0b1110#4) = .halt ∧ decode (.step 0b1111#4) = .stepRsvd := by
  decide

theorem test_decode_reads :
    decode (.host 0x0000000000#39) = .rdCtrl ∧ decode (.host 0x0100000000#39) = .rdStatus
    ∧ decode (.host 0x0200000000#39) = .rdRepeats ∧ decode (.host 0x0300000000#39) = .rdWidth
    ∧ decode (.host 0x0400000000#39) = .rdHeight ∧ decode (.host 0x0500000000#39) = .rdChannel
    ∧ decode (.host 0x0600000000#39) = .rdClockHz ∧ decode (.host 0x0700000000#39) = .rdRowDelayMs
    ∧ decode (.host 0x0800000000#39) = .rdPassDelayMs ∧ decode (.host 0x0900000000#39) = .rdRow
    ∧ decode (.host 0x0A00000000#39) = .rdFsPtr ∧ decode (.host 0x0B00000000#39) = .rdFsData := by decide

/-- A read ignores `data` (R74). -/
theorem test_decode_read_ignores_data : decode (.host 0x03DEADBEEF#39) = .rdWidth := by decide

theorem test_decode_writes :
    decode (.host 0x40FFFFFFF8#39) = .wrCtrl 0xFFFFFFF8#32 ∧ decode (.host 0x41FFFFFFFF#39) = .wrStatus 0xFFFFFFFF#32
    ∧ decode (.host 0x42FFFFFFFB#39) = .wrRepeats 0xFFFFFFFB#32 ∧ decode (.host 0x4300012345#39) = .wrWidth 0x12345#32
    ∧ decode (.host 0x4400000002#39) = .wrHeight 2#32 ∧ decode (.host 0x45000001FF#39) = .wrChannel 0x1FF#32
    ∧ decode (.host 0x46007A1200#39) = .wrClockHz 8000000#32 ∧ decode (.host 0x4700000002#39) = .wrRowDelayMs 2#32
    ∧ decode (.host 0x4800000000#39) = .wrPassDelayMs 0#32 ∧ decode (.host 0x4900000005#39) = .wrRow 5#32
    ∧ decode (.host 0x4A00000000#39) = .wrFsPtr 0#32 ∧ decode (.host 0x4B000001A5#39) = .wrFsData 0x1A5#32 := by
  decide

theorem test_decode_reserved_indices :
    decode (.host 0x0C00000000#39) = .rdRsvd12to15 12#6 ∧ decode (.host 0x0F00000000#39) = .rdRsvd12to15 15#6
    ∧ decode (.host 0x1000000000#39) = .rdRsvd16to31 16#6 ∧ decode (.host 0x1F00000000#39) = .rdRsvd16to31 31#6
    ∧ decode (.host 0x2000000000#39) = .rdRsvd32to63 32#6 ∧ decode (.host 0x3F00000000#39) = .rdRsvd32to63 63#6
    ∧ decode (.host 0x4C00000001#39) = .wrRsvd12to15 12#6 1#32 ∧ decode (.host 0x5F00000001#39) = .wrRsvd16to31 31#6 1#32
    ∧ decode (.host 0x7F00000001#39) = .wrRsvd32to63 63#6 1#32 := by decide

/-- Bytes (log 13): a STEP code is one byte, a host word five; other lengths and set padding bits are refused by name. -/
theorem test_decode_bytes :
    decodeBytes [0x0E#8] = .ok .halt ∧ decodeBytes [0x02#8, 0x00#8, 0x00#8, 0x00#8, 0x43#8] = .ok (.wrWidth 2#32)
    ∧ decodeBytes [] = .error .length ∧ decodeBytes [0x0E#8, 0x00#8] = .error .length
    ∧ decodeBytes [0x10#8] = .error .padding
    ∧ decodeBytes [0x00#8, 0x00#8, 0x00#8, 0x00#8, 0x80#8] = .error .padding := by decide

theorem test_decodeTableWord :
    decodeTableWord 8 0x5 = some .loadRow ∧ decodeTableWord 40 0x4B000001A5 = some (.wrFsData 0x1A5#32)
    ∧ decodeTableWord 40 0x6000000000 = some (.wrRsvd32to63 32#6 0#32) ∧ decodeTableWord 8 0x1F = none := by decide

/-! ## The encoder (95_test_vectors.md V1 to V8) -/

theorem test_encode_of_the_source_row :
    encodeBuffer [10#8, 20#8, 30#8, 40#8, 50#8, 60#8] = [0x8A#8, 0x85#8, 0x8F#8, 0x99#8, 0x94#8, 0x9E#8] := by decide
theorem test_pack_values : [0x00#8, 0x01#8, 0x02#8, 0x7F#8, 0x80#8, 0xAA#8, 0xFE#8, 0xFF#8].map pack
    = [0x80#8, 0x80#8, 0x81#8, 0xBF#8, 0xC0#8, 0xD5#8, 0xFF#8, 0xFF#8] := by decide
theorem test_gamma_values : [0x00#8, 0x01#8, 0x02#8, 0x7F#8, 0x80#8, 0xFF#8].map gamma
    = [0x00#8, 0xFF#8, 0xFF#8, 0xFF#8, 0xFF#8, 0xFF#8] := by decide
theorem test_reorder_values : reorder (10#8, 20#8, 30#8) = (20#8, 10#8, 30#8)
    ∧ reorder (0x00#8, 0x00#8, 0xFF#8) = (0x00#8, 0x00#8, 0xFF#8) := by decide
theorem test_encode_twice : encodeBuffer (encodeBuffer [10#8, 20#8, 30#8]) = [0xC2#8, 0xC5#8, 0xC7#8] := by decide
theorem test_latch : latch = [0x00#8, 0x00#8, 0x00#8] := by decide

/-! ## Small states -/

/-- Four LEDs at most, a frame store of 12 bytes, three clock cycles a millisecond. -/
def small : State := { State.reset with cfg := ⟨4, 12, 3, .msbFirst⟩ }

/-- A field of the state that comes next; false where the step stops. -/
def after (o : Outcome) (p : State → Bool) : Bool :=
  match o with
  | .next t => p t
  | _ => false

/-- The parameters of 95_test_vectors.md §3.1, at CHECK. -/
def atCheck (maxLeds fsBytes width height ptr : Nat) : State :=
  { State.reset with
    cfg := ⟨maxLeds, fsBytes, 1, .msbFirst⟩
    width := BitVec.ofNat 16 width
    height := BitVec.ofNat 16 height
    fsPtr := BitVec.ofNat 32 ptr
    state := .configuring
    stepCode := StepCode.check }

/-- One LED, two rows, the image of program P2, one pass to go, at the row given. -/
def p2 : State :=
  { small with
    width := 1#16
    height := 2#16
    repeats := 1#32
    fsPtr := 6#32
    fs := [(0, 0#8), (1, 1#8), (2, 2#8), (3, 128#8), (4, 0#8), (5, 255#8)] }

def p2Check : State := { p2 with state := .configuring, stepCode := StepCode.check }
def p2PassTest : State := { p2 with state := .configuring, stepCode := StepCode.passTest }
def p2Load : State := { p2 with state := .running, stepCode := StepCode.loadRow }
def p2Encode : State :=
  { p2 with state := .running, stepCode := StepCode.encodeBuf, scratch := [(0, 0#8), (1, 1#8), (2, 2#8)] }
def p2Send : State :=
  { p2 with
    state := .running
    stepCode := StepCode.txPayload
    scratch := [(0, 0x80#8), (1, 0x80#8), (2, 0x81#8)]
    history := [.configure 0#8 8000000#32 .ok, .initTransport .ok] }
def p2Latch : State :=
  { p2Send with
    stepCode := StepCode.txLatch
    history := [.configure 0#8 8000000#32 .ok, .initTransport .ok, .write 0#8 [0x80#8, 0x80#8, 0x81#8] .ok] }
def p2Delay : State :=
  { p2Send with
    stepCode := StepCode.rowDelay
    dlyCnt := 1#16
    history := [.configure 0#8 8000000#32 .ok, .initTransport .ok, .write 0#8 [0x80#8, 0x80#8, 0x81#8] .ok,
      .write 0#8 [0#8, 0#8, 0#8] .ok] }
def p2Blank : State := { p2 with state := .blanking, stepCode := StepCode.blankFill, row := 2#16 }
def p2BlankEncode : State :=
  { p2Blank with stepCode := StepCode.encodeBuf, scratch := [(0, 0#8), (1, 0#8), (2, 0#8)] }
def p2BlankSend : State :=
  { p2Blank with stepCode := StepCode.txPayload, scratch := [(0, 0x80#8), (1, 0x80#8), (2, 0x80#8)] }
def p2Done : State := { p2 with state := .terminated, stepCode := StepCode.halt, repeats := 0#32 }
def p2Failed : State := { p2 with state := .failed, stepCode := StepCode.halt, err := .rowLatch, row := 1#16 }

/-! ## Micro-operations (95_test_vectors.md §3.1, §3.2) -/

theorem test_waitStart_holds : after (exec .waitStart small) (· == small) = true := by decide
theorem test_check_geometry : after (exec .check (atCheck 65535 1048576 0 0 0)) (·.err == .geometry) = true := by decide
theorem test_check_does_not_wrap :
    after (exec .check (atCheck 65535 4294967295 65535 65535 4294967295)) (·.err == .capacity) = true := by decide
theorem test_configure_err :
    after (exec .configure { p2Check with stepCode := StepCode.configure, txAnswer := some .err })
      (fun t => t.err == .configure && t.history == [.configure 0#8 8000000#32 .err]) = true := by decide
theorem test_initTransport_err :
    after (exec .initTransport { p2Check with stepCode := StepCode.initTransport, txAnswer := some .err })
      (fun t => t.err == .initTransport && t.state == .failed) = true := by decide
theorem test_passTest_is_signed :
    after (exec .passTest { p2PassTest with repeats := 0x80000000#32 }) (·.state == .terminated) = true
    ∧ after (exec .passTest { p2PassTest with repeats := 0x7FFFFFFF#32 }) (·.state == .running) = true := by decide
theorem test_loadRow_with_gamma :
    after (exec .loadRow { p2Load with row := 1#16, gammaEn := true })
      (·.scratch == [(0, 0xFF#8), (1, 0x00#8), (2, 0xFF#8)]) = true := by decide
theorem test_loadRow_without_gamma :
    after (exec .loadRow { p2Load with row := 1#16 }) (·.scratch == [(0, 0x80#8), (1, 0x00#8), (2, 0xFF#8)]) = true := by
  decide
theorem test_encodeBuf :
    after (exec .encodeBuf p2Encode) (·.scratch == [(0, 0x80#8), (1, 0x80#8), (2, 0x81#8)]) = true := by decide
theorem test_txPayload_err :
    after (exec .txPayload { p2Send with txAnswer := some .err, history := [] })
      (fun t => t.err == .rowPayload && t.history == [.write 0#8 [0x80#8, 0x80#8, 0x81#8] .err]) = true := by decide
theorem test_txPayload_err_in_blanking :
    after (exec .txPayload { p2BlankSend with txAnswer := some .err }) (·.err == .blankPayload) = true := by decide
theorem test_txLatch_loads_the_pass_delay :
    after (exec .txLatch { p2BlankSend with stepCode := StepCode.txLatch, txAnswer := some .ok })
      (fun t => t.dlyCnt == 500#16 && t.stepCode == StepCode.passDelay) = true := by decide
theorem test_txLatch_err_in_running :
    after (exec .txLatch { p2Latch with txAnswer := some .err }) (·.err == .rowLatch) = true := by decide
theorem test_rowDelay_over :
    after (exec .rowDelay { p2Delay with dlyCnt := 0#16, history := [] })
      (fun t => t.history == [.delayDone 1#16] && t.stepCode == StepCode.rowNext) = true := by decide
theorem test_rowNext_last_row :
    after (exec .rowNext { p2Load with row := 65534#16, height := 65535#16 })
      (fun t => t.row == 65535#16 && t.state == .blanking) = true := by decide
theorem test_blankFill :
    after (exec .blankFill { p2Blank with scratch := [(0, 0x8A#8), (1, 0x85#8), (2, 0x8F#8)] })
      (·.scratch == [(0, 0#8), (1, 0#8), (2, 0#8)]) = true := by decide
theorem test_passDelay_holds :
    after (exec .passDelay { p2Blank with dlyCnt := 1#16 }) (·.history == []) = true := by decide
theorem test_passEnd :
    after (exec .passEnd p2Blank) (fun t => t.repeats == 0#32 && t.row == 0#16 && t.state == .terminated) = true
    ∧ after (exec .passEnd { p2Blank with repeats := 0x7FFFFFFF#32 })
        (fun t => t.repeats == 0x7FFFFFFE#32 && t.state == .running) = true := by decide
theorem test_halt_holds : after (exec .halt p2Failed) (· == p2Failed) = true := by decide

/-! ## Timer (95_test_vectors.md §3.3) -/

theorem test_tick : (tick p2Delay).dlyCnt = 0#16 ∧ tick small = small ∧ tick p2Send = p2Send := by decide

/-! ## The byte stream of a request, and one clock edge (10_state.md R48, 60_exceptions.md R204) -/

/-- P2's first payload presented, with `n` of its bytes accepted. -/
def p2Sending (n : Nat) : State := { p2Send with txPending := some ⟨.wr 0#8 [0x80#8, 0x80#8, 0x81#8], n⟩ }

theorem test_byte_stream :
    (p2Sending 0).txData = some 0x80#8 ∧ acceptByte (p2Sending 1) = p2Sending 2 ∧ (p2Sending 2).txData = some 0x81#8
    ∧ (p2Sending 3).txDataValid = false ∧ acceptByte (p2Sending 3) = p2Sending 3
    ∧ Request.len (.wr 0#8 [0x80#8, 0x80#8, 0x81#8]) = some 3#18 := by decide
theorem test_request_restarts_no_stream :
    after (exec .txPayload (p2Sending 2)) (· == p2Sending 2) = true
    ∧ after (exec .txPayload p2Send) (·.txPending == some ⟨.wr 0#8 [0x80#8, 0x80#8, 0x81#8], 0⟩) = true := by decide

/-- Every input at once: `tx_done`, a host write of WIDTH, an accepted byte. -/
def busyPins (rst : Bool) : Pins :=
  { rst := rst, hostValid := true, hostWe := true, hostAddr := 3#6, hostWdata := 2#32, txDataReady := true,
    txDone := true, txErr := false }

theorem test_edge_order :
    (p2Sending 2).edgeTurns ⟨busyPins false, 1, false⟩
      = [.txDataReady, .transport .ok, .sequencer, .host 0x4300000002#39, .cycle]
    ∧ (p2Sending 2).edgeTurns ⟨busyPins true, 1, false⟩
      = [.reset, .txDataReady, .abandoned .ok, .sequencer, .host 0x4300000002#39, .cycle] := by
  decide
theorem test_edge_ignored_answer :
    p2Load.edgeTurns ⟨busyPins false, 0, false⟩
      = [.txDataReady, .abandoned .ok, .host 0x4300000002#39, .cycle] := by decide
/-- A late answer, while P2's payload is presented (70_reset_and_hazards.md R232). -/
theorem test_late_answer :
    (p2Sending 2).edgeTurns ⟨busyPins false, 1, true⟩
      = [.txDataReady, .abandoned .ok, .sequencer, .host 0x4300000002#39, .cycle]
    ∧ after (step { p2Sending 2 with agenda := [.abandoned .ok] }) (· == p2Sending 2) = true := by decide

/-- No input at all. -/
def quietPins : Pins :=
  { rst := false, hostValid := false, hostWe := false, hostAddr := 0#6, hostWdata := 0#32, txDataReady := false,
    txDone := false, txErr := false }

/-- LOAD_ROW takes no step at an edge, or one, or is followed by ENCODE (70_reset_and_hazards.md R243). -/
theorem test_edge_steps :
    p2Load.edgeTurns ⟨quietPins, 0, false⟩ = [.cycle]
    ∧ p2Load.edgeTurns ⟨quietPins, 1, false⟩ = [.sequencer, .cycle]
    ∧ p2Load.edgeTurns ⟨quietPins, 2, false⟩ = [.sequencer, .sequencer, .cycle] := by decide
theorem test_edge_ends_read :
    (State.presentEdge { p2Load with hostRdata := some 1#32 } ⟨quietPins, 0, false⟩).hostRdata = none := by decide

/-! ## Host transactions (95_test_vectors.md §3.4, §3.5) -/

theorem test_reads_at_reset :
    after (exec .rdClockHz State.reset) (·.hostRdata == some 0x007A1200#32) = true
    ∧ after (exec .rdPassDelayMs State.reset) (·.hostRdata == some 0x000001F4#32) = true := by decide
theorem test_wrWidth_truncates :
    after (exec (.wrWidth 0x12345#32) small) (·.width == 0x2345#16) = true
    ∧ after (exec (.wrWidth 7#32) p2Load) (· == p2Load) = true := by decide
theorem test_wrChannel_truncates : after (exec (.wrChannel 0x1FF#32) small) (·.channel == 0xFF#8) = true := by decide
theorem test_wrCtrl_all_three :
    after (exec (.wrCtrl 7#32) { small with width := 1#16, height := 1#16, fsPtr := 3#32 })
      (fun t => t.gammaEn && t.fsPtr == 0#32 && t.statusWord == 0x00010009#32) = true := by decide
theorem test_wrCtrl_reserved_bits :
    after (exec (.wrCtrl 0xFFFFFFF8#32) { small with gammaEn := true, fsPtr := 1#32 })
      (fun t => !t.gammaEn && t.fsPtr == 1#32 && t.state == .idle) = true := by decide
theorem test_wrFsData :
    after (exec (.wrFsData 0x1A5#32) small) (fun t => t.fs == [(0, 0xA5#8)] && t.fsPtr == 1#32) = true := by decide
theorem test_wrFsData_overflow :
    after (exec (.wrFsData 9#32) { small with cfg := ⟨4, 3, 1, .msbFirst⟩, fsPtr := 3#32 })
      (fun t => t.statusWord == 0x00001000#32 && t.fs == []) = true := by decide
theorem test_status_words :
    p2Load.statusWord = 0x0005000A#32 ∧ p2Delay.statusWord = 0x0009000A#32 ∧ p2Done.statusWord = 0x000E0014#32
    ∧ p2Failed.statusWord = 0x000E0725#32
    ∧ State.statusWord { p2Blank with stepCode := StepCode.passDelay } = 0x000C000B#32 := by decide

/-! ## A step runs what withFetchWord places -/

theorem test_step_runs_a_placed_host_word :
    after (step (State.reset.withFetchWord 40 0x4300000002)) (·.width == 2#16) = true := by decide
theorem test_step_runs_a_placed_micro_op :
    after (step (State.reset.withFetchWord 8 0x2))
      (fun t => t.history == [.configure 0#8 8000000#32 .ok] && t.stepCode == StepCode.initTransport) = true := by decide

/-! ## States of the invariant -/

theorem inv_p2Check : p2Check.Inv := by
  refine ⟨⟨by decide, ?_, by decide, by decide, by decide, by decide, by decide⟩,
    ⟨by decide, ?_, by decide, by decide, by decide, by decide, by decide, by decide, by decide, by decide, ?_, ?_,
      by decide⟩⟩
  · intro h; exact absurd h (by decide)
  · intro h; exact absurd h (by decide)
  · intro h; exact absurd h (by decide)
  · intro r h; cases h

theorem inv_p2Load : p2Load.Inv := by
  refine ⟨⟨by decide, fun _ => ⟨⟨by decide, by decide, by decide, by decide⟩, by decide⟩, by decide, by decide, by decide,
    by decide, by decide⟩,
    ⟨by decide, ?_, by decide, by decide, by decide, by decide, by decide, by decide, by decide, by decide, ?_, ?_,
      by decide⟩⟩
  · intro h; exact absurd h (by decide)
  · intro h; exact absurd h (by decide)
  · intro r h; cases h

theorem inv_p2Send : p2Send.Inv := by
  refine ⟨⟨by decide, fun _ => ⟨⟨by decide, by decide, by decide, by decide⟩, by decide⟩, by decide, by decide, by decide,
    by decide, by decide⟩,
    ⟨by decide, ?_, by decide, by decide, by decide, by decide, by decide, by decide, by decide, by decide,
      fun _ => by decide, ?_, by decide⟩⟩
  · intro h; exact absurd h (by decide)
  · intro r h; cases h

theorem inv_p2Encode : p2Encode.Inv := by
  refine ⟨⟨by decide, fun _ => ⟨⟨by decide, by decide, by decide, by decide⟩, by decide⟩, by decide, by decide, by decide,
    by decide, by decide⟩,
    ⟨by decide, ?_, by decide, by decide, by decide, by decide, by decide, by decide, by decide, by decide,
      fun _ => by decide, ?_, by decide⟩⟩
  · intro h; exact absurd h (by decide)
  · intro r h; cases h

theorem inv_p2BlankSend : p2BlankSend.Inv := by
  refine ⟨⟨by decide, fun _ => ⟨⟨by decide, by decide, by decide, by decide⟩, by decide⟩, by decide, by decide, by decide,
    by decide, by decide⟩,
    ⟨by decide, ?_, by decide, by decide, by decide, by decide, by decide, by decide, by decide, by decide,
      fun _ => by decide, ?_, by decide⟩⟩
  · intro h; exact absurd h (by decide)
  · intro r h; cases h

theorem inv_p2BlankEncode : p2BlankEncode.Inv := by
  refine ⟨⟨by decide, fun _ => ⟨⟨by decide, by decide, by decide, by decide⟩, by decide⟩, by decide, by decide, by decide,
    by decide, by decide⟩,
    ⟨by decide, ?_, by decide, by decide, by decide, by decide, by decide, by decide, by decide, by decide,
      fun _ => by decide, ?_, by decide⟩⟩
  · intro h; exact absurd h (by decide)
  · intro r h; cases h

/-- The frames of P2 without gamma. -/
def p2Frames : List (List Byte) := [[0#8, 1#8, 2#8], [128#8, 0#8, 255#8]]

theorem framesAre_p2 : p2.FramesAre p2Frames := by
  refine ⟨by decide, fun r h => ?_⟩
  have : r = 0 ∨ r = 1 := by simp [p2Frames] at h; omega
  rcases this with rfl | rfl <;> rfl

theorem geometry_p2Check : p2Check.GeometryChecked := ⟨by decide, by decide, by decide, by decide⟩

theorem scratch_p2Send : p2Send.ScratchHolds := by
  refine ⟨fun h => absurd h (by decide), fun _ => ⟨[0#8, 1#8, 2#8], .inl ⟨rfl, by decide⟩, by decide⟩⟩

theorem scratch_p2BlankEncode : p2BlankEncode.ScratchHolds := by
  refine ⟨fun _ => ⟨[0#8, 0#8, 0#8], .inr ⟨rfl, by decide⟩, by decide⟩, fun h => absurd h (by decide)⟩

theorem scratch_p2BlankSend : p2BlankSend.ScratchHolds := by
  refine ⟨fun h => absurd h (by decide), fun _ => ⟨[0#8, 0#8, 0#8], .inr ⟨rfl, by decide⟩, by decide⟩⟩

theorem protocol_p2Send : p2Send.InProtocol := ⟨.ready, by decide, Eq.refl Protocol.ready⟩

/-! ## Witnesses: the hypotheses of the obligations can be met -/

theorem witness_DecodeOfEncodeIsTheInstruction :
    (Instr.rdRsvd12to15 12#6).wf = true ∧ (Instr.rdRsvd12to15 15#6).wf = true ∧ (Instr.rdRsvd16to31 16#6).wf = true
    ∧ (Instr.rdRsvd16to31 31#6).wf = true ∧ (Instr.wrRsvd32to63 32#6 0xFFFFFFFF#32).wf = true
    ∧ (Instr.wrRsvd32to63 63#6 0#32).wf = true ∧ (Instr.wrFsData 0xFFFFFFFF#32).wf = true ∧ Instr.halt.wf = true := by
  decide

theorem witness_EncodeOfDecodeIsTheWord :
    BitVec.getLsbD 0x7F00000001#39 38 = true ∧ BitVec.getLsbD 0x3FFFFFFFFF#39 38 = false := by decide

theorem witness_StepRunsTheDecodedInstruction :
    small.agenda.headD .sequencer = .sequencer
    ∧ (∃ s : State, s.agenda.headD .sequencer = .transport .ok ∧ s.stepCode ∈ [0x2#4, 0x3#4, 0x7#4, 0x8#4])
    ∧ (∃ s : State, s.agenda.headD .sequencer = .transport .err ∧ s.stepCode ∉ [0x2#4, 0x3#4, 0x7#4, 0x8#4])
    ∧ (∃ s : State, s.agenda.headD .sequencer = .abandoned .ok) ∧ (∃ s : State, s.agenda.headD .sequencer = .txDataReady)
    ∧ (∃ s : State, s.agenda.headD .sequencer = .host 0#39) ∧ (∃ s : State, s.agenda.headD .sequencer = .tick)
    ∧ (∃ s : State, s.agenda.headD .sequencer = .cycle) ∧ ∃ s : State, s.agenda.headD .sequencer = .reset :=
  ⟨by decide, ⟨{ p2Latch with agenda := [.transport .ok] }, by decide⟩,
    ⟨{ p2Load with agenda := [.transport .err] }, by decide⟩,
    ⟨{ p2Sending 0 with agenda := [.abandoned .ok] }, by decide⟩,
    ⟨{ p2Sending 0 with agenda := [.txDataReady] }, by decide⟩, ⟨{ small with agenda := [.host 0#39] }, by decide⟩,
    ⟨{ p2Delay with agenda := [.tick] }, by decide⟩, ⟨{ p2Delay with agenda := [.cycle] }, by decide⟩,
    ⟨{ small with agenda := [.reset] }, by decide⟩⟩

theorem witness_ResetTurnKeepsOnlyStorage : State.nextTurn { p2Send with agenda := [.reset] } = .reset := by decide

theorem witness_StatusWordFields :
    (∃ s : State, s.state = .idle ∧ s.err = .none) ∧ (∃ s : State, s.state = .configuring) ∧ p2Load.state = .running
    ∧ p2Blank.state = .blanking ∧ p2Done.state = .terminated ∧ p2Failed.state = .failed ∧ p2Failed.err = .rowLatch
    ∧ ∀ e : ErrCode, ∃ s : State, s.err = e :=
  ⟨⟨small, by decide⟩, ⟨p2Check, by decide⟩, by decide, by decide, by decide, by decide, by decide,
    fun e => ⟨{ p2Failed with err := e }, rfl⟩⟩

theorem witness_ConfigurationLock :
    isLockedWrite (.wrWidth 7#32) = true ∧ p2Load.state ≠ .idle ∧ isHostRead (.rdRsvd32to63 63#6) = true := by decide

theorem witness_InertWrites :
    isInertWrite (.wrStatus 0xFFFFFFFF#32) = true ∧ isInertWrite (.wrRow 5#32) = true
    ∧ isInertWrite (.wrFsPtr 0#32) = true ∧ isInertWrite (.wrRsvd12to15 12#6 1#32) = true
    ∧ isInertWrite (.wrRsvd16to31 16#6 1#32) = true ∧ isInertWrite (.wrRsvd32to63 63#6 1#32) = true := by decide

theorem witness_ConfigurationWrites : small.state = .idle ∧ p2Load.state ≠ .idle := by decide

theorem witness_GeometryWrites :
    small.state = .idle ∧ p2Done.state ≠ .idle
    ∧ (∃ s : State, s.state = .configuring ∧ s.width.toNat = 0) ∧ (∃ s : State, s.state = .configuring ∧ s.height.toNat = 0)
    ∧ ∃ s : State, s.state = .configuring ∧ s.cfg.maxLeds < s.width.toNat :=
  ⟨by decide, by decide, ⟨atCheck 4 12 0 5 0, by decide⟩, ⟨atCheck 4 12 3 0 0, by decide⟩, ⟨atCheck 4 12 5 1 15, by decide⟩⟩

theorem witness_CtrlWrite :
    small.state = .idle ∧ p2Failed.state ≠ .idle ∧ BitVec.getLsbD 7#32 0 = true ∧ BitVec.getLsbD 7#32 1 = true
    ∧ BitVec.getLsbD 4#32 0 = false ∧ BitVec.getLsbD 4#32 1 = false
    ∧ (small.width.toNat = 0 ∨ small.height.toNat = 0)
    ∧ ∃ s : State, s.state = .idle ∧ s.width.toNat ≠ 0 ∧ s.height.toNat ≠ 0 ∧ s.width.toNat = s.cfg.maxLeds
      ∧ 3 * s.width.toNat * s.height.toNat = s.cfg.fsBytes :=
  ⟨by decide, by decide, by decide, by decide, by decide, by decide, by decide,
    { small with width := 4#16, height := 1#16 }, by decide⟩

theorem witness_FsDataWrite :
    small.cfg.legal ∧ p2Load.cfg.legal ∧ p2Load.state ≠ .idle
    ∧ (∃ s : State, s.cfg.legal ∧ s.state = .idle ∧ s.fsPtr.toNat = s.cfg.fsBytes)
    ∧ ∃ s : State, s.cfg.legal ∧ s.state = .idle ∧ s.fsPtr.toNat + 1 = s.cfg.fsBytes :=
  ⟨by decide, by decide, by decide, ⟨{ small with fsPtr := 12#32 }, by decide⟩, ⟨{ small with fsPtr := 11#32 }, by decide⟩⟩

theorem witness_LoadStoresBytesInOrder :
    ∃ (bs : List Byte) (rest : List Turn) (s : State), s.cfg.legal ∧ s.state = .idle
      ∧ s.fsPtr.toNat + bs.length = s.cfg.fsBytes
      ∧ s.agenda = bs.map (fun b => Turn.host (hostWord true 11#6 (b.setWidth 32))) ++ rest :=
  ⟨[1#8, 2#8, 255#8], [.sequencer],
    { small with fsPtr := 9#32, agenda := [.host 0x4B00000001#39, .host 0x4B00000002#39, .host 0x4B000000FF#39, .sequencer] },
    by decide⟩

theorem witness_HostTransactionsNeverFail :
    BitVec.getLsbD 0x0B00000000#39 38 = false ∧ BitVec.getLsbD 0x4B00000000#39 38 = true := by decide

theorem witness_StartLeavesIdleUntilReset :
    BitVec.getLsbD 1#32 0 = true ∧ p2Check.state ≠ .idle ∧ p2Check.nextTurn ≠ .reset ∧ ∃ t, step p2Check = .next t :=
  ⟨by decide, by decide, by decide, _, rfl⟩

theorem witness_EncodeBufferByTriples :
    [1#8, 2#8, 3#8, 4#8, 5#8, 6#8].length % 3 = 0 ∧ 3 * 1 + 2 < [1#8, 2#8, 3#8, 4#8, 5#8, 6#8].length
    ∧ ([] : List Byte).length % 3 = 0 := by decide

theorem witness_EncoderAlgebra :
    [0#8, 0#8, 0#8].length % 3 = 0 ∧ 0x80#8 ∈ encodeBuffer [0#8, 0#8, 0#8] ∧ ([] : List Byte).length % 3 = 0 := by decide

theorem witness_CheckOutcome :
    (∃ s : State, s.state = .configuring ∧ s.width.toNat = 0)
    ∧ (∃ s : State, s.state = .configuring ∧ s.width.toNat ≠ 0 ∧ s.height.toNat ≠ 0 ∧ s.width.toNat = s.cfg.maxLeds + 1)
    ∧ (∃ s : State, s.state = .configuring ∧ s.width.toNat ≠ 0 ∧ s.height.toNat ≠ 0 ∧ s.width.toNat ≤ s.cfg.maxLeds
        ∧ 3 * s.width.toNat * s.height.toNat ≤ s.cfg.fsBytes
        ∧ s.fsPtr.toNat + 1 = 3 * s.width.toNat * s.height.toNat)
    ∧ ∃ s : State, s.state = .configuring ∧ s.width.toNat ≠ 0 ∧ s.height.toNat ≠ 0 ∧ s.width.toNat ≤ s.cfg.maxLeds
        ∧ 3 * s.width.toNat * s.height.toNat = s.cfg.fsBytes
        ∧ 3 * s.width.toNat * s.height.toNat = s.fsPtr.toNat :=
  ⟨⟨atCheck 4 12 0 0 0, by decide⟩, ⟨atCheck 4 15 5 1 15, by decide⟩, ⟨atCheck 4 12 2 2 11, by decide⟩,
    ⟨atCheck 4 12 2 2 12, by decide⟩⟩

theorem witness_ConfigureAndInitializeAnswers :
    (∃ s : State, s.state = .configuring ∧ s.txAnswer = some .ok)
    ∧ ∃ s : State, s.state = .configuring ∧ s.txAnswer = some .err :=
  ⟨⟨{ p2Check with stepCode := StepCode.configure, txAnswer := some .ok }, by decide⟩,
    ⟨{ p2Check with stepCode := StepCode.initTransport, txAnswer := some .err }, by decide⟩⟩

theorem witness_PassTestOutcome :
    (p2PassTest.state = .configuring ∧ 0 < p2PassTest.repeats.toInt)
    ∧ (∃ s : State, s.state = .configuring ∧ s.repeats.toInt = 0)
    ∧ ∃ s : State, s.state = .configuring ∧ s.repeats.toInt = -2147483648 :=
  ⟨by decide, ⟨{ p2PassTest with repeats := 0#32 }, by decide⟩, ⟨{ p2PassTest with repeats := 0x80000000#32 }, by decide⟩⟩

/-- Program P4: five passes short of none. -/
def p4Check : State :=
  { p2Check with repeats := 0xFFFFFFFB#32, agenda := [.sequencer, .transport .ok, .transport .ok, .sequencer] }

theorem witness_NonPositiveRepeatsSendNothing :
    p4Check.Inv ∧ p4Check.state = .configuring ∧ p4Check.stepCode = StepCode.check ∧ p4Check.GeometryChecked
    ∧ p4Check.repeats.toInt = -5
    ∧ p4Check.agenda = [.sequencer, .transport .ok, .transport .ok, .sequencer] ++ [] := by
  refine ⟨⟨⟨by decide, ?_, by decide, by decide, by decide, by decide, by decide⟩,
    ⟨by decide, ?_, by decide, by decide, by decide, by decide, by decide, by decide, by decide, by decide, ?_, ?_,
      by decide⟩⟩, by decide, by decide, ⟨by decide, by decide, by decide, by decide⟩, by decide, by decide⟩
  · intro h; exact absurd h (by decide)
  · intro h; exact absurd h (by decide)
  · intro h; exact absurd h (by decide)
  · intro r h; cases h

/-- The last row, all of whose bytes lie just below `FS_PTR`; and a state of the invariant. -/
theorem witness_LoadRowCopiesTheRow :
    (∃ s : State, s.state = .running ∧ s.width.toNat ≤ s.cfg.maxLeds
      ∧ s.row.toNat * 3 * s.width.toNat + 3 * s.width.toNat = s.fsPtr.toNat ∧ s.fsPtr.toNat ≤ s.cfg.fsBytes
      ∧ 0 < 3 * s.width.toNat
      ∧ ∀ j, j < 3 * s.width.toNat → (s.fs.read (s.row.toNat * 3 * s.width.toNat + j)).isSome)
    ∧ p2Load.Inv ∧ p2Load.state = .running :=
  ⟨⟨{ p2Load with row := 1#16 }, by decide⟩, inv_p2Load, by decide⟩

theorem witness_EncodeTransformsTheScratchBuffer :
    (p2Encode.state = .running ∧ p2Encode.width.toNat ≤ p2Encode.cfg.maxLeds
      ∧ ∀ j, j < 3 * p2Encode.width.toNat → (p2Encode.scratch.read j).isSome)
    ∧ (∃ s : State, s.state = .blanking ∧ s.width.toNat ≤ s.cfg.maxLeds
      ∧ ∀ j, j < 3 * s.width.toNat → (s.scratch.read j).isSome)
    ∧ (p2Encode.Inv ∧ p2Encode.stepCode = StepCode.encodeBuf)
    ∧ (∃ s t : State, (∀ j, j < 3 * s.width.toNat → s.scratch.read j = some 0x00#8) ∧ 0 < 3 * s.width.toNat
      ∧ exec .encodeBuf s = .next t)
    ∧ p2BlankEncode.Inv ∧ p2BlankEncode.ScratchHolds ∧ p2BlankEncode.state = .blanking
    ∧ p2BlankEncode.stepCode = StepCode.encodeBuf :=
  ⟨by decide, ⟨{ p2Encode with state := .blanking }, by decide⟩, ⟨inv_p2Encode, by decide⟩,
    ⟨p2BlankEncode, _, by decide, by decide, rfl⟩, inv_p2BlankEncode, scratch_p2BlankEncode, by decide, by decide⟩

theorem witness_TxPayloadAnswers :
    ∃ p : List Byte, p.length = 3 * p2Send.width.toNat ∧ p2Send.width.toNat ≤ p2Send.cfg.maxLeds
      ∧ (∀ j, (h : j < p.length) → p2Send.scratch.read j = some p[j])
      ∧ (∃ s : State, s = { p2Send with txAnswer := some .ok } ∧ s.state = .running ∧ s.txAnswer = some .ok)
      ∧ (∃ s : State, s = { p2Send with txAnswer := some .err } ∧ s.state = .running ∧ s.txAnswer = some .err)
      ∧ ∃ s : State, s = { p2Send with state := .blanking, txAnswer := some .err } ∧ s.state = .blanking
        ∧ s.txAnswer = some .err :=
  ⟨[0x80#8, 0x80#8, 0x81#8], by decide, by decide, by decide, ⟨_, rfl, by decide⟩, ⟨_, rfl, by decide⟩, ⟨_, rfl, by decide⟩⟩

theorem witness_TxLatchAnswers : ∀ a : Answer,
    (∃ s : State, s.state = .running ∧ s.txAnswer = some a) ∧ ∃ s : State, s.state = .blanking ∧ s.txAnswer = some a :=
  fun a => ⟨⟨{ p2Latch with txAnswer := some a }, rfl, rfl⟩, ⟨{ p2BlankSend with txAnswer := some a }, rfl, rfl⟩⟩

theorem witness_TransportMicroOpsHoldUntilAnswered :
    (∃ s : State, s.txAnswer = none ∧ s.state = .configuring)
    ∧ p2Send.txAnswer = none ∧ p2Send.state = .running ∧ p2Send.width.toNat ≤ p2Send.cfg.maxLeds
    ∧ (∃ p : List Byte, p.length = 3 * p2Send.width.toNat ∧ ∀ j, (h : j < p.length) → p2Send.scratch.read j = some p[j])
    ∧ (∀ n, p2Send.txPending ≠ some ⟨.wr p2Send.channel [0x80#8, 0x80#8, 0x81#8], n⟩)
    ∧ ∃ n, (p2Sending 2).txPending = some ⟨.wr (p2Sending 2).channel [0x80#8, 0x80#8, 0x81#8], n⟩ :=
  ⟨⟨{ p2Check with stepCode := StepCode.configure }, by decide⟩, by decide, by decide, by decide,
    ⟨[0x80#8, 0x80#8, 0x81#8], by decide, by decide⟩, nofun, 2, rfl⟩

theorem witness_DelayMicroOpsWaitForZero :
    (p2Load.state = .running ∧ p2Load.dlyCnt.toNat = 0) ∧ (p2Delay.state = .running ∧ p2Delay.dlyCnt.toNat = 1)
    ∧ (p2Blank.state = .blanking ∧ p2Blank.dlyCnt.toNat = 0)
    ∧ ∃ s : State, s.state = .blanking ∧ s.dlyCnt.toNat = 65535 :=
  ⟨by decide, by decide, by decide, ⟨{ p2Blank with dlyCnt := 65535#16 }, by decide⟩⟩

theorem witness_RowNextAdvances :
    (p2Load.state = .running ∧ p2Load.row.toNat < p2Load.height.toNat ∧ p2Load.row.toNat + 1 < p2Load.height.toNat)
    ∧ ∃ s : State, s.state = .running ∧ s.row.toNat < s.height.toNat ∧ ¬ s.row.toNat + 1 < s.height.toNat
      ∧ s.height.toNat = 65535 :=
  ⟨by decide, ⟨{ p2Load with row := 65534#16, height := 65535#16 }, by decide⟩⟩

theorem witness_BlankFillZeroes : p2Blank.state = .blanking ∧ p2Blank.width.toNat ≤ p2Blank.cfg.maxLeds := by decide

theorem witness_PassEndCountsDown :
    (p2Blank.state = .blanking ∧ p2Blank.repeats.toInt = 1)
    ∧ ∃ s : State, s.state = .blanking ∧ 1 ≤ s.repeats.toInt ∧ 1 < s.repeats.toInt :=
  ⟨by decide, ⟨{ p2Blank with repeats := 0x7FFFFFFF#32 }, by decide⟩⟩

theorem witness_WaitStartAndHaltHold :
    small.state = .idle ∧ (p2Done.state = .terminated ∧ ∀ k, p2Done.err ≠ .reserved k)
    ∧ p2Failed.state = .failed ∧ ∀ k, p2Failed.err ≠ .reserved k := by decide

theorem witness_ReservedStepFaults : State.stepCode { p2Load with stepCode := 0xF#4 } = 0xF#4
    ∧ State.nextTurn { p2Load with stepCode := 0xF#4 } = .sequencer
    ∧ p2Load.state ∈ legalPhases p2Load.stepCode ∧ ∃ t, step p2Load = .next t :=
  ⟨by decide, by decide, by decide, _, rfl⟩

theorem witness_IllegalPairsFault :
    (∃ s : State, s.state ∉ legalPhases s.stepCode ∧ s.nextTurn = .sequencer)
    ∧ (∃ s : State, s.state = .reserved7 ∧ s.state ∉ legalPhases s.stepCode ∧ s.nextTurn = .sequencer)
    ∧ p2Load.state ∈ legalPhases p2Load.stepCode ∧ ∃ t, step p2Load = .next t :=
  ⟨⟨{ small with stepCode := StepCode.loadRow }, by decide⟩, ⟨{ small with state := .reserved7 }, by decide⟩,
    by decide, _, rfl⟩

theorem witness_UnwrittenStorageFaults :
    (∃ s : State, s.state = .running ∧ 2 < 3 * s.width.toNat
      ∧ s.fsPtr.toNat ≤ s.row.toNat * 3 * s.width.toNat + 2)
    ∧ (∃ s : State, s.state = .running ∧ 0 < 3 * s.width.toNat
      ∧ s.fs.read (s.row.toNat * 3 * s.width.toNat + 0) = none)
    ∧ (∃ s : State, s.state = .running ∧ 2 < 3 * s.width.toNat ∧ s.scratch.read 2 = none)
    ∧ ∃ s : State, s.state = .blanking ∧ 0 < 3 * s.width.toNat ∧ s.scratch.read 0 = none :=
  ⟨⟨{ p2Load with fsPtr := 2#32 }, by decide⟩, ⟨{ p2Load with fs := [] }, by decide⟩,
    ⟨{ p2Encode with scratch := [(0, 0#8), (1, 0#8)] }, by decide⟩, ⟨p2Blank, by decide⟩⟩

theorem witness_FatalEntryIsPrecise :
    (∃ t, exec .check (atCheck 4 12 0 5 0) = .next t ∧ (atCheck 4 12 0 5 0).state ≠ .failed ∧ t.state = .failed)
    ∧ (∃ s t : State, exec .configure s = .next t ∧ s.state ≠ .failed ∧ t.state = .failed)
    ∧ (∃ s t : State, exec .initTransport s = .next t ∧ s.state ≠ .failed ∧ t.state = .failed)
    ∧ (∃ s t : State, exec .txPayload s = .next t ∧ s.state ≠ .failed ∧ t.state = .failed)
    ∧ ∃ s t : State, exec .txLatch s = .next t ∧ s.state ≠ .failed ∧ t.state = .failed :=
  ⟨⟨_, rfl, by decide, rfl⟩, ⟨{ p2Check with txAnswer := some .err }, _, rfl, by decide, rfl⟩,
    ⟨{ p2Check with txAnswer := some .err }, _, rfl, by decide, rfl⟩,
    ⟨{ p2Send with txAnswer := some .err }, _, rfl, by decide, rfl⟩,
    ⟨{ p2Latch with txAnswer := some .err }, _, rfl, by decide, rfl⟩⟩

theorem witness_HaltedUntilReset :
    (p2Failed.state = .failed ∧ p2Failed.stepCode = StepCode.halt ∧ (∀ k, p2Failed.err ≠ .reserved k)
      ∧ p2Failed.nextTurn ≠ .reset ∧ p2Failed.txPending = none)
    ∧ ∃ s : State, s.state = .terminated ∧ s.stepCode = StepCode.halt ∧ (∀ k, s.err ≠ .reserved k)
      ∧ s.nextTurn = .host 0x4000000001#39 :=
  ⟨by decide, ⟨{ p2Done with agenda := [.host 0x4000000001#39] }, by decide⟩⟩

theorem witness_TickCountsDown :
    (p2Delay.state = .running ∧ p2Delay.stepCode = StepCode.rowDelay ∧ 0 < p2Delay.dlyCnt.toNat)
    ∧ (∃ s : State, s.state = .blanking ∧ s.stepCode = StepCode.passDelay ∧ s.dlyCnt.toNat = 65535)
    ∧ ¬ ((p2Load.state = .running ∨ p2Load.state = .blanking)
      ∧ (p2Load.stepCode = StepCode.rowDelay ∨ p2Load.stepCode = StepCode.passDelay) ∧ 0 < p2Load.dlyCnt.toNat) :=
  ⟨by decide, ⟨{ p2Blank with stepCode := StepCode.passDelay, dlyCnt := 65535#16 }, by decide⟩, by decide⟩

theorem witness_DelayLastsExactlyItsTicks :
    (∃ s t : State, s.txAnswer = some .ok ∧ exec .txLatch s = .next t ∧ s.state = .running ∧ 0 < s.rowDelayMs.toNat
      ∧ s.rowDelayMs.toNat ≤ 1)
    ∧ ∃ s t : State, s.txAnswer = some .ok ∧ exec .txLatch s = .next t ∧ s.state = .blanking
      ∧ 499 < s.passDelayMs.toNat ∧ s.passDelayMs.toNat ≤ 500 :=
  ⟨⟨{ p2Latch with txAnswer := some .ok }, _, rfl, rfl, by decide⟩,
    ⟨{ p2BlankSend with stepCode := StepCode.txLatch, txAnswer := some .ok }, _, rfl, rfl, by decide⟩⟩

theorem witness_DelayLastsExactlyItsCycles :
    (p2Delay.stepCode = StepCode.rowDelay ∧ 0 < p2Delay.dlyCnt.toNat ∧ p2Delay.presc ≠ p2Delay.cfg.cyclesPerMs - 1
      ∧ p2Delay.cfg.legal ∧ p2Delay.presc = 0 ∧ p2Delay.state = .running)
    ∧ ∃ s : State, s.stepCode = StepCode.passDelay ∧ 0 < s.dlyCnt.toNat ∧ s.presc = s.cfg.cyclesPerMs - 1 :=
  ⟨by decide, ⟨{ p2Blank with stepCode := StepCode.passDelay, dlyCnt := 1#16, presc := 2 }, by decide⟩⟩

theorem witness_OnlyTableEdgesAreTaken :
    (p2Load.state ∈ legalPhases p2Load.stepCode ∧ ∃ t, step p2Load = .next t)
    ∧ ∃ s t : State, s.state ∈ legalPhases s.stepCode ∧ step s = .next t ∧ s.nextTurn = .reset :=
  ⟨⟨by decide, _, rfl⟩, ⟨{ p2Load with agenda := [.reset] }, _, by decide, rfl, by decide⟩⟩

theorem witness_NothingLoadedChangesOutsideIdle :
    (p2Load.state ≠ .idle ∧ p2Load.nextTurn ≠ .reset ∧ ∃ t, step p2Load = .next t)
    ∧ ∃ s t : State, s.state ≠ .idle ∧ s.nextTurn ≠ .reset ∧ step s = .next t ∧ t.repeats ≠ s.repeats :=
  ⟨⟨by decide, by decide, _, rfl⟩,
    ⟨{ p2Blank with stepCode := StepCode.passEnd }, _, by decide, by decide, rfl, by decide⟩⟩

theorem witness_StepKeepsTheInvariant :
    (p2Load.Inv ∧ ∃ t, step p2Load = .next t) ∧ p2BlankSend.Inv ∧ ∃ t, step p2BlankSend = .next t :=
  ⟨⟨inv_p2Load, _, rfl⟩, inv_p2BlankSend, _, rfl⟩

theorem witness_InvariantStatesNeverStop : p2Load.Inv ∧ p2Send.Inv ∧ p2BlankSend.Inv ∧ p2Check.Inv :=
  ⟨inv_p2Load, inv_p2Send, inv_p2BlankSend, inv_p2Check⟩

theorem witness_StepKeepsTheFrameInScratch :
    (p2Send.Inv ∧ p2Send.ScratchHolds ∧ ∃ t, step p2Send = .next t)
    ∧ p2BlankSend.Inv ∧ p2BlankSend.ScratchHolds ∧ ∃ t, step p2BlankSend = .next t :=
  ⟨⟨inv_p2Send, scratch_p2Send, _, rfl⟩, inv_p2BlankSend, scratch_p2BlankSend, _, rfl⟩

theorem witness_StepKeepsTheTransmitProtocol :
    p2Send.Inv ∧ p2Send.ScratchHolds ∧ p2Send.InProtocol ∧ ∃ t, step p2Send = .next t :=
  ⟨inv_p2Send, scratch_p2Send, protocol_p2Send, _, rfl⟩

theorem witness_ProtocolFramesEveryPayload :
    Protocol.after .start p2Delay.history = some .owesDelay
    ∧ p2Delay.history[2]? = some (.write 0#8 [0x80#8, 0x80#8, 0x81#8] .ok)
    ∧ [0x80#8, 0x80#8, 0x81#8] ≠ [0#8, 0#8, 0#8]
    ∧ Protocol.after .start p2Latch.history = some (.owesLatch 0#8) := by decide

theorem witness_HostWriteOrderIsUnobservable :
    (BitVec.getLsbD 0x4300000007#39 38 = true ∧ p2Load.state ≠ .idle ∧ ∃ t, sequencerTurn p2Load = .next t)
    ∧ (p2Send.state ≠ .idle ∧ ∃ t, transportTurn .err p2Send = .next t)
    ∧ (small.state = .idle ∧ small.stepCode = StepCode.waitStart)
    ∧ (∃ t, hostTurn 0x4300000007#39 small = .next t)
    ∧ (p2Delay.state ∈ legalPhases p2Delay.stepCode ∧ ∃ t, hostTurn 0x4300000007#39 p2Delay = .next t) :=
  ⟨⟨by decide, by decide, _, rfl⟩, ⟨by decide, _, rfl⟩, by decide, ⟨_, rfl⟩, by decide, _, rfl⟩

theorem witness_AbandonedRequestsAndTheirAnswers :
    (∃ s : State, s.nextTurn = .reset ∧ s.txReq = true) ∧ ∃ s : State, s.nextTurn = .abandoned .err ∧ s.txReq = true :=
  ⟨⟨{ p2Sending 2 with agenda := [.reset] }, by decide⟩, { p2Sending 2 with agenda := [.abandoned .err] }, by decide⟩

theorem witness_AQuietEdgeNeedNotStepTheSequencer :
    (∃ e : Edge, e.pins.rst = false ∧ e.pins.hostValid = false ∧ e.pins.txDataReady = false ∧ e.pins.txDone = false
      ∧ e.steps = 0) ∧ isDelayStep p2Load.stepCode = false :=
  ⟨⟨⟨quietPins, 0, false⟩, by decide⟩, by decide⟩

theorem witness_ByteStreamDeliversTheRequest :
    ((p2Sending 0).txPending = some ⟨.wr 0#8 [0x80#8, 0x80#8, 0x81#8], 0⟩
      ∧ 3 ≤ (Request.wr 0#8 [0x80#8, 0x80#8, 0x81#8]).data.length)
    ∧ (p2Sending 3).txData = none ∧ p2Load.txData = none := by decide

theorem witness_OnePassEmitsItsHistory :
    ∃ s : State, s.Inv ∧ s.state = .running ∧ s.stepCode = StepCode.loadRow ∧ s.row = 0#16 ∧ s.FramesAre p2Frames
      ∧ s.agenda = passTurns s ++ [] ∧ s.repeats.toInt = 1 := by
  refine ⟨{ p2Load with agenda := passTurns p2Load }, ?_, rfl, rfl, rfl, ?_, by simp [passTurns], by decide⟩
  · obtain ⟨⟨a1, a2, a3, a4, a5, a6, a7⟩, ⟨b1, b2, b3, b4, b5, b6, b7, b8, b9, b10, b11, b12, b13⟩⟩ := inv_p2Load
    exact ⟨⟨a1, fun h => ⟨⟨(a2 h).1.1, (a2 h).1.2, (a2 h).1.3, (a2 h).1.4⟩, (a2 h).2⟩, a3, a4, a5, a6, a7⟩,
      ⟨b1, fun h => absurd h (by decide), b3, b4, b5, b6, b7, b8, b9, b10, b11, b12, b13⟩⟩
  · exact ⟨framesAre_p2.1, framesAre_p2.2⟩

theorem witness_SuccessfulRunEmitsItsHistory :
    ∃ s : State, s.Inv ∧ s.state = .configuring ∧ s.stepCode = StepCode.check ∧ s.GeometryChecked ∧ s.history = []
      ∧ s.FramesAre p2Frames ∧ s.repeats.toInt = 1
      ∧ s.agenda = [Turn.sequencer, .transport .ok, .transport .ok, .sequencer]
        ++ (List.replicate s.repeats.toInt.toNat (passTurns s)).flatten ++ [] := by
  refine ⟨{ p2Check with agenda := [Turn.sequencer, .transport .ok, .transport .ok, .sequencer] ++ passTurns p2Check },
    ?_, rfl, rfl, ⟨by decide, by decide, by decide, by decide⟩, rfl, ⟨framesAre_p2.1, framesAre_p2.2⟩, by decide, ?_⟩
  · obtain ⟨⟨a1, a2, a3, a4, a5, a6, a7⟩, ⟨b1, b2, b3, b4, b5, b6, b7, b8, b9, b10, b11, b12, b13⟩⟩ := inv_p2Check
    exact ⟨⟨a1, fun h => absurd h (by decide), a3, a4, a5, a6, a7⟩,
      ⟨b1, fun h => absurd h (by decide), b3, b4, b5, b6, b7, b8, b9, b10, b11, b12, b13⟩⟩
  · have : BitVec.toInt p2Check.repeats = 1 := by decide
    simp [this]
    rfl

end Sys2Proof.Tests
end

section
/-! PROOF. The invariant in parts, and the shapes of a step that keep it (10_state.md R47). -/

namespace Sys2Proof.Machine

open Sys2Proof.Config (Params)

variable {s : State}

/-! ## The invariant, part by part

Each part is a predicate of the fields it speaks of, so that it is the same proposition in two states that agree on
them, and a step has to prove only the parts whose fields it changes. -/

/-- The storages and the frame-store port (R47 item 1, R184, R39, R40). -/
structure StorageSound (p : Params) (ptr : Word) (fs scratch : Memory) : Prop where
  params : p.legal
  ptr_le : ptr.toNat ≤ p.fsBytes
  fs_wf : fs.wf
  fs_written : ∀ a, a < ptr.toNat → (fs.read a).isSome
  fs_inside : ∀ c ∈ fs, c.1 < p.fsBytes
  scratch_wf : scratch.wf
  scratch_inside : ∀ c ∈ scratch, c.1 < 3 * p.maxLeds

/-- `State.GeometryChecked`, of the fields it speaks of. -/
structure GeometryFits (p : Params) (width height : Half) (ptr : Word) : Prop where
  width_pos : 1 ≤ width.toNat
  width_le : width.toNat ≤ p.maxLeds
  height_pos : 1 ≤ height.toNat
  image_loaded : 3 * width.toNat * height.toNat ≤ ptr.toNat

theorem geometryFits_iff {s : State} : GeometryFits s.cfg s.width s.height s.fsPtr ↔ s.GeometryChecked :=
  ⟨fun ⟨h1, h2, h3, h4⟩ => ⟨h1, h2, h3, h4⟩, fun ⟨h1, h2, h3, h4⟩ => ⟨h1, h2, h3, h4⟩⟩

/-- What the invariant says where `STATE` is the phase given: `ERR`, `ROW`, and in a pass the geometry and `REPEATS`
(R47 items 2 to 4, R24). The phases that share a line ask the same, so that a step between them keeps it. -/
abbrev State.FactsIn (s : State) : Phase → Prop
  | .idle | .configuring | .terminated => s.err = .none ∧ s.row = 0#16
  | .running =>
    s.err = .none ∧ GeometryFits s.cfg s.width s.height s.fsPtr ∧ 1 ≤ s.repeats.toInt ∧ s.row.toNat < s.height.toNat
  | .blanking => s.err = .none ∧ GeometryFits s.cfg s.width s.height s.fsPtr ∧ 1 ≤ s.repeats.toInt ∧ s.row = s.height
  | .failed => s.err ≠ .none ∧ s.err.isReserved = false
  | .reserved6 | .reserved7 => False

/-- The micro-operations between CHECK and the first pass. -/
abbrev AfterCheck (c : MicroCode) : Prop :=
  c = StepCode.configure ∨ c = StepCode.initTransport ∨ c = StepCode.passTest

/-- The micro-operations that read the scratch buffer. -/
abbrev ReadsScratch (c : MicroCode) : Prop := c = StepCode.encodeBuf ∨ c = StepCode.txPayload

/-- What the invariant says of the current micro-operation, its delay and its request, in whatever phase it stands. -/
structure State.StepSound (s : State) : Prop where
  pair_legal : s.state ∈ legalPhases s.stepCode
  no_delay : isDelayStep s.stepCode = false → s.dlyCnt = 0#16
  presc_lt : s.presc < s.cfg.cyclesPerMs
  checked_early : AfterCheck s.stepCode → GeometryFits s.cfg s.width s.height s.fsPtr
  scratch_written : ReadsScratch s.stepCode → ∀ j, j < s.rowBytes → (s.scratch.read j).isSome
  pending_current : ∀ p, s.txPending = some p → s.RequestOfStep p.request ∧ p.sent ≤ p.request.data.length
  no_answer : s.txAnswer = none

/-- No `STEP` code may stand in a reserved state. -/
theorem reserved_not_legal (c : MicroCode) : .reserved6 ∉ legalPhases c ∧ .reserved7 ∉ legalPhases c := by
  revert c; decide

/-- `ERR` is 0 in every phase but `FAILED`. -/
theorem State.FactsIn.err_eq_none {p : Phase} (h : s.FactsIn p) (hp : p ≠ .failed) : s.err = .none := by
  cases p with
  | idle | configuring | running | blanking | terminated => exact h.1
  | failed => exact absurd rfl hp
  | reserved6 | reserved7 => exact h.elim

theorem State.Inv.storage (hi : s.Inv) : StorageSound s.cfg s.fsPtr s.fs s.scratch :=
  ⟨hi.wired.params, hi.r47.fsPtr_le, hi.wired.fs_wf, hi.wired.fs_written, hi.wired.fs_inside, hi.wired.scratch_wf,
    hi.wired.scratch_inside⟩

theorem State.Inv.stepSound (hi : s.Inv) : s.StepSound :=
  ⟨hi.r47.pair_legal, hi.r47.no_delay, hi.wired.presc_lt, fun h => geometryFits_iff.mpr (hi.wired.checked_early h),
    hi.wired.scratch_written, hi.wired.pending_current, hi.wired.no_answer⟩

theorem State.Inv.factsIn {p : Phase} (hi : s.Inv) (hs : s.state = p) : s.FactsIn p := by
  obtain ⟨hr, hw⟩ := hi
  have herr : s.state ≠ .failed → s.err = .none := fun h => not_not.mp (mt hr.err_iff.mp h)
  have hlegal := hr.pair_legal
  rw [hs] at herr hlegal
  cases p with
  | idle => exact ⟨herr (by decide), hw.row_zero (.inl hs)⟩
  | configuring => exact ⟨herr (by decide), hw.row_zero (.inr (.inl hs))⟩
  | terminated => exact ⟨herr (by decide), hw.row_zero (.inr (.inr hs))⟩
  | running =>
    obtain ⟨hg, hrep⟩ := hr.checked (.inl hs)
    exact ⟨herr (by decide), geometryFits_iff.mpr hg, hrep, hr.row_running hs⟩
  | blanking =>
    obtain ⟨hg, hrep⟩ := hr.checked (.inr hs)
    exact ⟨herr (by decide), geometryFits_iff.mpr hg, hrep, hr.row_blanking hs⟩
  | failed => exact ⟨hr.err_iff.mpr hs, hw.err_known⟩
  | reserved6 => exact (reserved_not_legal _).1 hlegal
  | reserved7 => exact (reserved_not_legal _).2 hlegal

/-- The three parts are the whole invariant. -/
theorem inv_of_parts (hst : StorageSound s.cfg s.fsPtr s.fs s.scratch) (hc : s.StepSound) (hf : s.FactsIn s.state) :
    s.Inv := by
  have facts {p : Phase} (h : s.state = p) : s.FactsIn p := h ▸ hf
  refine ⟨⟨hst.ptr_le, ?_, fun h => ?_, fun h => ?_, ?_, hc.pair_legal, hc.no_delay⟩,
    ⟨hst.params, fun h => geometryFits_iff.mp (hc.checked_early h), ?_, ?_, hc.presc_lt, hst.fs_wf, hst.scratch_wf,
      hst.fs_written, hst.fs_inside, hst.scratch_inside, hc.scratch_written, hc.pending_current, hc.no_answer⟩⟩
  · rintro (h | h) <;> obtain ⟨-, hg, hrep, -⟩ := facts h <;> exact ⟨geometryFits_iff.mp hg, hrep⟩
  · obtain ⟨-, -, -, hrow⟩ := facts h
    exact hrow
  · obtain ⟨-, -, -, hrow⟩ := facts h
    exact hrow
  · exact ⟨fun he => by_contra fun h => he (hf.err_eq_none h), fun h => (facts h).1⟩
  · rintro (h | h | h) <;> exact (facts h).2
  · by_cases h : s.state = .failed
    · exact (facts h).2
    · rw [hf.err_eq_none h]
      rfl

/-! ## What storage operations keep -/

section
variable {p : Params} {ptr : Word} {fs scratch : Memory}

theorem StorageSound.cyclesPerMs_pos (h : StorageSound p ptr fs scratch) : 0 < p.cyclesPerMs := by
  obtain ⟨-, -, -, -, hpos⟩ := h.params
  exact hpos

/-- FS_RESET erases no byte (R162). -/
theorem StorageSound.rewind (h : StorageSound p ptr fs scratch) : StorageSound p 0#32 fs scratch :=
  { h with ptr_le := Nat.zero_le _, fs_written := fun a ha => absurd ha (Nat.not_lt_zero a) }

/-- R184: `FS_PTR` does not wrap, since `FS_BYTES` is below 2^32. -/
theorem StorageSound.append (h : StorageSound p ptr fs scratch) (room : ptr.toNat < p.fsBytes) (b : Byte) :
    StorageSound p (ptr + 1#32) (fs.write ptr.toNat b) scratch := by
  obtain ⟨-, -, -, hmax, -⟩ := h.params
  have hptr : (ptr + 1#32).toNat = ptr.toNat + 1 := by
    simp only [BitVec.toNat_add, BitVec.toNat_ofNat]
    omega
  refine { h with ptr_le := by omega, fs_wf := Memory.write_wf h.fs_wf _ _, fs_written := fun a ha => ?_,
                  fs_inside := fun c hc => ?_ }
  · rw [Memory.read_write]
    split
    · rfl
    · exact h.fs_written a (by omega)
  · rcases Memory.mem_write hc with rfl | hc
    · exact room
    · exact h.fs_inside c hc

theorem StorageSound.scratch_write (h : StorageSound p ptr fs scratch) {bs : List Byte}
    (hlen : bs.length ≤ 3 * p.maxLeds) : StorageSound p ptr fs (scratch.writeBytes 0 bs) := by
  refine { h with scratch_wf := Memory.writeBytes_wf bs h.scratch_wf 0, scratch_inside := fun c hc => ?_ }
  rcases Memory.mem_writeBytes bs hc with hc | hc
  · omega
  · exact h.scratch_inside c hc

end

/-! ## What the invariant says of the current micro-operation -/

theorem State.Inv.dlyCnt_eq_zero (hi : s.Inv) (h : isDelayStep s.stepCode = false) : s.dlyCnt = 0#16 :=
  hi.stepSound.no_delay h

/-- A request is pending only at a micro-operation that issues one. -/
theorem State.Inv.txPending_eq_none (hi : s.Inv) (h : isTransportStep s.stepCode = false) : s.txPending = none := by
  refine Option.eq_none_iff_forall_ne_some.mpr fun q hq => ?_
  have hreq := (hi.stepSound.pending_current q hq).1
  have hstep : isTransportStep s.stepCode = true := by
    rw [isTransportStep_iff]
    rcases q with ⟨_ | _ | _, _⟩
    · exact .inl hreq.1
    · exact .inr (.inl hreq)
    · exact .inr (.inr (hreq.2.imp And.left And.left))
  rw [h] at hstep
  cases hstep

theorem not_readsScratch_of_afterCheck (c : MicroCode) : AfterCheck c → ¬ReadsScratch c := by
  revert c; decide

theorem stepCode_of_idle_legal (c : MicroCode) : .idle ∈ legalPhases c → c = StepCode.waitStart := by
  revert c; decide

theorem State.Inv.stepCode_of_idle (hi : s.Inv) (hs : s.state = .idle) : s.stepCode = StepCode.waitStart :=
  stepCode_of_idle_legal _ (hs ▸ hi.stepSound.pair_legal)

/-! ## Shapes of a step that keep the invariant -/

/-- The interface, the history and the delay timer: a delay counts in a delay micro-operation only, a pending request is
the current one, no answer is left; read data, history and turns to come are free. -/
theorem State.Inv.interface (hi : s.Inv) {d : Half} {n : Nat} {q : Option Pending} {a : Option Answer}
    {r : Option Word} {h : List Event} {l : List Turn} (hd : isDelayStep s.stepCode = false → d = 0#16)
    (hn : n < s.cfg.cyclesPerMs)
    (hq : ∀ p, q = some p → s.RequestOfStep p.request ∧ p.sent ≤ p.request.data.length) (ha : a = none) :
    State.Inv { s with
      dlyCnt := d, presc := n, txPending := q, txAnswer := a, hostRdata := r, history := h, agenda := l } :=
  inv_of_parts hi.storage
    { hi.stepSound with no_delay := hd, presc_lt := hn, pending_current := hq, no_answer := ha }
    (hi.factsIn rfl)

/-- The sequencer goes on, with no request pending and no delay left, to a micro-operation that does not read the
scratch buffer. -/
theorem State.Inv.goto (hi : s.Inv) (hreq : s.txPending = none) (hd : s.dlyCnt = 0#16) {p : Phase} {c : MicroCode}
    {row : Half} {rep : Word} {e : ErrCode} {h : List Event} (hpair : p ∈ legalPhases c)
    (hread : ¬ReadsScratch c) (hcheck : AfterCheck c → GeometryFits s.cfg s.width s.height s.fsPtr)
    (hf : State.FactsIn { s with row := row, repeats := rep, err := e } p) :
    State.Inv { s with state := p, stepCode := c, row := row, repeats := rep, err := e, history := h } :=
  inv_of_parts hi.storage
    { hi.stepSound with
      pair_legal := hpair
      no_delay := fun _ => hd
      checked_early := hcheck
      scratch_written := fun hc => absurd hc hread
      pending_current := fun q hq => by cases hreq.symm.trans hq }
    hf

/-- A fatal error is raised. -/
theorem State.Inv.fatal (hi : s.Inv) (hreq : s.txPending = none) (hd : s.dlyCnt = 0#16) {e : ErrCode}
    (he : e ≠ .none ∧ e.isReserved = false) : (raiseFatal e s).Inv :=
  hi.goto hreq hd (by decide) (by decide) (fun h => absurd h (by decide)) he

/-- A frame is put in the scratch buffer, for ENCODE or TX_PAYLOAD to read. -/
theorem State.Inv.fill (hi : s.Inv) (hreq : s.txPending = none) (hd : s.dlyCnt = 0#16) {c : MicroCode}
    {bs : List Byte} (hpair : s.state ∈ legalPhases c) (hc : ReadsScratch c)
    (hlen : bs.length = s.rowBytes) (hroom : s.rowBytes ≤ 3 * s.cfg.maxLeds) :
    State.Inv { s with scratch := s.scratch.writeBytes 0 bs, stepCode := c } :=
  inv_of_parts (hi.storage.scratch_write (hlen ▸ hroom))
    { hi.stepSound with
      pair_legal := hpair
      no_delay := fun _ => hd
      checked_early := fun h => absurd hc (not_readsScratch_of_afterCheck _ h)
      scratch_written := fun _ j hj => by
        have hj : j < bs.length := hlen ▸ hj
        show ((s.scratch.writeBytes 0 bs).read j).isSome
        rw [read_writeBytes_zero, if_pos hj, List.getElem?_eq_getElem hj]
        rfl
      pending_current := fun q hq => by cases hreq.symm.trans hq }
    (hi.factsIn rfl)

/-- In `IDLE` the configuration and the frame store may become whatever storage allows. -/
theorem State.Inv.idle_write (hi : s.Inv) (hs : s.state = .idle) {w h rd pd : Half} {rep clk ptr : Word} {ch : BitVec 8}
    {g ovf : Bool} {fs : Memory} (hst : StorageSound s.cfg ptr fs s.scratch) :
    State.Inv { s with
      width := w, height := h, repeats := rep, channel := ch, clockHz := clk, rowDelayMs := rd, passDelayMs := pd,
      gammaEn := g, fsPtr := ptr, fsOvf := ovf, fs := fs } := by
  have hc := hi.stepCode_of_idle hs
  have hreq := hi.txPending_eq_none (by rw [hc]; decide)
  refine inv_of_parts hst
    { hi.stepSound with
      checked_early := fun h => absurd (hc ▸ h) (by decide)
      scratch_written := fun h => absurd (hc ▸ h) (by decide)
      pending_current := fun q hq => by cases hreq.symm.trans hq } ?_
  show State.FactsIn _ s.state
  rw [hs]
  exact hi.factsIn hs

/-- Reset keeps the invariant, whatever the storages hold. -/
theorem inv_reset {p : Params} {fs scratch : Memory} (h : StorageSound p 0#32 fs scratch) (l : List Turn) :
    State.Inv { State.reset with cfg := p, fs := fs, scratch := scratch, agenda := l } :=
  inv_of_parts h
    { pair_legal := (by decide : Phase.idle ∈ legalPhases StepCode.waitStart)
      no_delay := fun _ => rfl
      presc_lt := h.cyclesPerMs_pos
      checked_early := fun h => absurd h (by decide : ¬AfterCheck StepCode.waitStart)
      scratch_written := fun h => absurd h (by decide : ¬ReadsScratch StepCode.waitStart)
      pending_current := fun q hq => by cases hq
      no_answer := rfl }
    ⟨rfl, rfl⟩

end Sys2Proof.Machine
end

section
/-! PROOF. Every micro-operation keeps the invariant (41_sequencer.md). -/

namespace Sys2Proof.Machine

variable {s t u : State}

/-! ## Every micro-operation keeps the invariant -/

/-- A micro-operation that neither issues a request nor waits out a delay runs with no request pending and no delay
left. -/
theorem State.Inv.at_plain_step (hi : s.Inv) {c : MicroCode} (hc : s.stepCode = c)
    (h : isTransportStep c = false ∧ isDelayStep c = false) : s.txPending = none ∧ s.dlyCnt = 0#16 :=
  ⟨hi.txPending_eq_none (hc ▸ h.1), hi.dlyCnt_eq_zero (hc ▸ h.2)⟩

theorem check_keeps_inv (hi : s.Inv) (hc : s.stepCode = StepCode.check) (h : exec .check s = .next t) : t.Inv := by
  obtain ⟨hreq, hd⟩ := hi.at_plain_step hc (by decide)
  obtain ⟨hs, ⟨e, he, rfl⟩ | ⟨hok, rfl⟩⟩ := exec_check_next h
  · refine hi.fatal hreq hd ?_
    rcases startCheck_code he with rfl | rfl | rfl <;> decide
  · exact hi.goto hreq hd (by rw [hs]; decide) (by decide) (fun _ => geometryFits_iff.mpr (startCheck_eq_none.mp hok).1)
      (hi.factsIn rfl)

theorem passTest_keeps_inv (hi : s.Inv) (hc : s.stepCode = StepCode.passTest) (h : exec .passTest s = .next t) :
    t.Inv := by
  obtain ⟨hreq, hd⟩ := hi.at_plain_step hc (by decide)
  have hg := hi.stepSound.checked_early (.inr (.inr hc))
  obtain ⟨hs, ⟨hr, rfl⟩ | ⟨-, rfl⟩⟩ := exec_passTest_next h
  · obtain ⟨herr, -⟩ := hi.factsIn hs
    exact hi.goto hreq hd (by decide) (by decide) (fun _ => hg) ⟨herr, hg, hr, hg.height_pos⟩
  · exact hi.goto hreq hd (by decide) (by decide) (fun _ => hg) (hi.factsIn (p := .configuring) hs)

theorem loadRow_keeps_inv (hi : s.Inv) (hc : s.stepCode = StepCode.loadRow) (h : exec .loadRow s = .next t) :
    t.Inv := by
  obtain ⟨hreq, hd⟩ := hi.at_plain_step hc (by decide)
  obtain ⟨hs, bs, -, hlen, hroom, rfl⟩ := exec_loadRow_next h
  exact hi.fill hreq hd (by simp [hs]) (.inl rfl) (by simpa using hlen) hroom

theorem encodeBuf_keeps_inv (hi : s.Inv) (hc : s.stepCode = StepCode.encodeBuf) (h : exec .encodeBuf s = .next t) :
    t.Inv := by
  obtain ⟨hreq, hd⟩ := hi.at_plain_step hc (by decide)
  obtain ⟨hs, bs, -, hlen, hroom, rfl⟩ := exec_encodeBuf_next h
  exact hi.fill hreq hd (by simpa using hs) (.inr rfl) (by simpa using hlen) hroom

theorem blankFill_keeps_inv (hi : s.Inv) (hc : s.stepCode = StepCode.blankFill) (h : exec .blankFill s = .next t) :
    t.Inv := by
  obtain ⟨hreq, hd⟩ := hi.at_plain_step hc (by decide)
  obtain ⟨hs, hroom, rfl⟩ := exec_blankFill_next h
  exact hi.fill hreq hd (by simp [hs]) (.inl rfl) List.length_replicate hroom

/-- ROW_DELAY and PASS_DELAY hold, or go on with their event emitted. -/
theorem delay_keeps_inv (hi : s.Inv) (hn : isTransportStep s.stepCode = false) {ev : Event} {c : MicroCode}
    (hpair : s.state ∈ legalPhases c) (hread : ¬ReadsScratch c) (hcheck : ¬AfterCheck c)
    (h : (s.dlyCnt = 0#16 ∧ t = (emit ev s).goStep c) ∨ (s.dlyCnt ≠ 0#16 ∧ t = s)) : t.Inv := by
  rcases h with ⟨hd, rfl⟩ | ⟨-, rfl⟩
  · exact hi.goto (hi.txPending_eq_none hn) hd hpair hread (fun h => absurd h hcheck) (hi.factsIn rfl)
  · exact hi

theorem rowNext_keeps_inv (hi : s.Inv) (hc : s.stepCode = StepCode.rowNext) (h : exec .rowNext s = .next t) :
    t.Inv := by
  obtain ⟨hreq, hd⟩ := hi.at_plain_step hc (by decide)
  obtain ⟨hs, hnext⟩ := exec_rowNext_next h
  obtain ⟨herr, hg, hrep, hrow⟩ := hi.factsIn hs
  have hsucc := row_succ_toNat hrow
  rcases hnext with ⟨hlt, rfl⟩ | ⟨hge, rfl⟩
  · refine hi.goto hreq hd (by rw [hs]; decide) (by decide) (fun _ => hg) ?_
    rw [hs]
    exact ⟨herr, hg, hrep, hsucc.trans_lt hlt⟩
  · have hend : s.row + 1#16 = s.height := BitVec.eq_of_toNat_eq (by omega)
    exact hi.goto hreq hd (by decide) (by decide) (fun _ => hg) ⟨herr, hg, hrep, hend⟩

theorem passEnd_keeps_inv (hi : s.Inv) (hc : s.stepCode = StepCode.passEnd) (h : exec .passEnd s = .next t) :
    t.Inv := by
  obtain ⟨hreq, hd⟩ := hi.at_plain_step hc (by decide)
  obtain ⟨hs, hnext⟩ := exec_passEnd_next h
  obtain ⟨herr, hg, -, -⟩ := hi.factsIn hs
  rcases hnext with ⟨hrep, rfl⟩ | ⟨-, rfl⟩
  · exact hi.goto hreq hd (by decide) (by decide) (fun _ => hg) ⟨herr, hg, hrep, hg.height_pos⟩
  · exact hi.goto hreq hd (by decide) (by decide) (fun _ => hg) ⟨herr, rfl⟩

/-- The micro-operations that issue no request. -/
theorem plain_micro_keeps_inv (hi : s.Inv) (hn : isTransportStep s.stepCode = false)
    (h : exec (decodeStep s.stepCode) s = .next t) : t.Inv := by
  rcases stepCode_cases s.stepCode with
    hc | hc | hc | hc | hc | hc | hc | hc | hc | hc | hc | hc | hc | hc | hc | hc <;> rw [hc] at h hn
  · exact (exec_waitStart_next h).2 ▸ hi
  · exact check_keeps_inv hi hc h
  · cases hn
  · cases hn
  · exact passTest_keeps_inv hi hc h
  · exact loadRow_keeps_inv hi hc h
  · exact encodeBuf_keeps_inv hi hc h
  · cases hn
  · cases hn
  · obtain ⟨hs, h⟩ := exec_rowDelay_next h
    exact delay_keeps_inv hi (hc ▸ hn) (by simp [hs]) (by decide) (by decide) h
  · exact rowNext_keeps_inv hi hc h
  · exact blankFill_keeps_inv hi hc h
  · obtain ⟨hs, h⟩ := exec_passDelay_next h
    exact delay_keeps_inv hi (hc ▸ hn) (by simp [hs]) (by decide) (by decide) h
  · exact passEnd_keeps_inv hi hc h
  · exact (exec_halt_next h).2 ▸ hi
  · exact (exec_stepRsvd_next h).elim

/-! ## The micro-operations that issue a request

They run in a state that may present an answer, which is the state `s` of the invariant but for that answer. -/

/-- A request of the current micro-operation keeps the invariant if what follows its `Ok` does, from a state at the same
micro-operation with no request pending and no delay left. -/
theorem requested_keeps_inv {r : Request} {event : Answer → Event} {code : ErrCode} {onOk : State → State}
    {a : Option Answer} (h : Requested r event code onOk { s with txAnswer := a } t) (hi : s.Inv)
    (hn : isDelayStep s.stepCode = false) (hr : s.RequestOfStep r) (hcode : code ≠ .none ∧ code.isReserved = false)
    (hok : ∀ v, v.Inv → v.txPending = none → v.dlyCnt = 0#16 → v.state = s.state → v.stepCode = s.stepCode →
      (onOk v).Inv) : t.Inv := by
  have hc := hi.stepSound
  have hd := hi.dlyCnt_eq_zero hn
  have answered (ev : Event) : State.Inv (emit ev { s with txPending := none, txAnswer := none }) :=
    hi.interface hc.no_delay hc.presc_lt (fun q hq => by cases hq) rfl
  rcases h with ⟨ha, rfl⟩ | ⟨-, rfl⟩ | ⟨-, rfl⟩
  · refine hi.interface hc.no_delay hc.presc_lt (fun q hq => ?_) ha
    cases hq
    exact ⟨hr, sentOf_le r fun p hp => (hc.pending_current p hp).2⟩
  · exact hok _ (answered _) rfl hd rfl rfl
  · exact (answered _).fatal rfl hd hcode

theorem not_afterCheck_readsScratch_of_delay (c : MicroCode) :
    isDelayStep c = true → ¬AfterCheck c ∧ ¬ReadsScratch c := by
  revert c; decide

/-- A delay starts, with the prescaler at 0 (R221). -/
theorem State.Inv.delay (hi : s.Inv) (hreq : s.txPending = none) {c : MicroCode} (hc : isDelayStep c = true)
    (hpair : s.state ∈ legalPhases c) (d : Half) : State.Inv { s with dlyCnt := d, presc := 0, stepCode := c } :=
  have hn := not_afterCheck_readsScratch_of_delay c hc
  inv_of_parts hi.storage
    { hi.stepSound with
      pair_legal := hpair
      no_delay := fun h => by cases hc.symm.trans h
      presc_lt := hi.storage.cyclesPerMs_pos
      checked_early := fun h => absurd h hn.1
      scratch_written := fun h => absurd h hn.2
      pending_current := fun q hq => by cases hreq.symm.trans hq }
    (hi.factsIn rfl)

theorem startDelay_keeps_inv (hi : s.Inv) (hreq : s.txPending = none) (hs : s.state = .running ∨ s.state = .blanking) :
    (startDelay s).Inv := by
  unfold startDelay
  split
  · next h => exact hi.delay hreq rfl (by simp [h]) _
  · next h => exact hi.delay hreq rfl (by simp [hs.resolve_left h]) _

section
variable {a : Option Answer}

theorem configure_keeps_inv (hi : s.Inv) (hc : s.stepCode = StepCode.configure)
    (h : exec .configure { s with txAnswer := a } = .next t) : t.Inv := by
  obtain ⟨hs, hr⟩ := exec_configure_next h
  refine requested_keeps_inv hr hi (hc ▸ rfl) ⟨hc, rfl, rfl⟩ (by decide) fun v hv hreq hd hvs hvc => ?_
  exact hv.goto hreq hd (by simpa [hvs] using hs) (by decide)
    (fun _ => hv.stepSound.checked_early (.inl (hvc.trans hc))) (hv.factsIn rfl)

theorem initTransport_keeps_inv (hi : s.Inv) (hc : s.stepCode = StepCode.initTransport)
    (h : exec .initTransport { s with txAnswer := a } = .next t) : t.Inv := by
  obtain ⟨hs, hr⟩ := exec_initTransport_next h
  refine requested_keeps_inv hr hi (hc ▸ rfl) hc (by decide) fun v hv hreq hd hvs hvc => ?_
  exact hv.goto hreq hd (by simpa [hvs] using hs) (by decide)
    (fun _ => hv.stepSound.checked_early (.inr (.inl (hvc.trans hc)))) (hv.factsIn rfl)

theorem txPayload_keeps_inv (hi : s.Inv) (hc : s.stepCode = StepCode.txPayload)
    (h : exec .txPayload { s with txAnswer := a } = .next t) : t.Inv := by
  obtain ⟨hs, p, hp, -, hr⟩ := exec_txPayload_next h
  refine requested_keeps_inv hr hi (hc ▸ rfl) ⟨rfl, .inl ⟨hc, hp⟩⟩ (by split <;> decide) fun v hv hreq hd hvs _ => ?_
  exact hv.goto hreq hd (by simpa [hvs] using hs) (by decide) (fun h => absurd h (by decide)) (hv.factsIn rfl)

theorem txLatch_keeps_inv (hi : s.Inv) (hc : s.stepCode = StepCode.txLatch)
    (h : exec .txLatch { s with txAnswer := a } = .next t) : t.Inv := by
  obtain ⟨hs, hr⟩ := exec_txLatch_next h
  refine requested_keeps_inv hr hi (hc ▸ rfl) ⟨rfl, .inr ⟨hc, rfl⟩⟩ (by split <;> decide) fun v hv hreq _ hvs _ => ?_
  exact startDelay_keeps_inv hv hreq (hvs ▸ hs)

/-- Every micro-operation, with an answer presented only if it waits for one. -/
theorem micro_keeps_inv (hi : s.Inv) (hu : u = { s with txAnswer := a })
    (ha : a = none ∨ isTransportStep s.stepCode = true) (h : exec (decodeStep s.stepCode) u = .next t) : t.Inv := by
  cases hn : isTransportStep s.stepCode with
  | false =>
    obtain rfl : a = none := ha.resolve_right (by simp [hn])
    obtain rfl : u = s := by rw [hu, ← hi.stepSound.no_answer]
    exact plain_micro_keeps_inv hi hn h
  | true =>
    rcases isTransportStep_iff.mp hn with hc | hc | hc | hc <;> rw [hc] at h <;> subst hu
    · exact configure_keeps_inv hi hc h
    · exact initTransport_keeps_inv hi hc h
    · exact txPayload_keeps_inv hi hc h
    · exact txLatch_keeps_inv hi hc h

end

end Sys2Proof.Machine
end

section
/-! PROOF. The invariant holds at reset, and every step of every agent keeps it (10_state.md R47). -/

namespace Sys2Proof.Machine

variable {s t : State}

/-! ## The other agents keep the invariant -/

theorem tick_keeps_inv (hi : s.Inv) : (tick s).Inv := by
  have hc := hi.stepSound
  rcases tick_cases s with ⟨-, hd, -, ht⟩ | ht <;> rw [ht]
  · exact hi.interface (fun h => by cases hd.symm.trans h) hc.presc_lt hc.pending_current hc.no_answer
  · exact hi

theorem clockCycle_keeps_inv (hi : s.Inv) : (clockCycle s).Inv := by
  have hc := hi.stepSound
  have prescaled {n : Nat} (hn : n < s.cfg.cyclesPerMs) : State.Inv { s with presc := n } :=
    hi.interface hc.no_delay hn hc.pending_current hc.no_answer
  have hlt := hc.presc_lt
  rcases clockCycle_cases s with ⟨-, -, -, ht⟩ | ⟨-, -, hne, ht⟩ | ht <;> rw [ht]
  · exact tick_keeps_inv (prescaled (Nat.zero_lt_of_lt hlt))
  · exact prescaled (by omega)
  · exact hi

theorem acceptByte_keeps_inv (hi : s.Inv) : (acceptByte s).Inv := by
  have hc := hi.stepSound
  refine hi.interface hc.no_delay hc.presc_lt (fun q hq => ?_) hc.no_answer
  obtain ⟨p, hp, rfl⟩ := Option.map_eq_some_iff.mp hq
  obtain ⟨hcur, hle⟩ := hc.pending_current p hp
  exact ⟨by rw [accept_request]; exact hcur, accept_sent_le hle⟩

/-- START in `IDLE` (R162). -/
theorem start_keeps_inv (hi : s.Inv) (hs : s.state = .idle) : (s.goto .configuring StepCode.check).Inv := by
  obtain ⟨hreq, hd⟩ := hi.at_plain_step (hi.stepCode_of_idle hs) (by decide)
  exact hi.goto hreq hd (by decide) (by decide) (fun h => absurd h (by decide)) (hi.factsIn (p := .idle) hs)

theorem hostEffect_keeps_inv (hi : s.Inv) (h : HostEffect s t) : t.Inv := by
  have hc := hi.stepSound
  cases h with
  | read v => exact hi.interface hc.no_delay hc.presc_lt hc.pending_current hc.no_answer
  | nothing => exact hi
  | ctrl data idle =>
    have hset : (if ctrlFsReset data then fsRewind { s with gammaEn := ctrlGammaEn data }
        else { s with gammaEn := ctrlGammaEn data }).Inv := by
      split
      · exact hi.idle_write idle hi.storage.rewind
      · exact hi.idle_write idle hi.storage
    split
    · refine start_keeps_inv hset ?_
      split <;> exact idle
    · exact hset
  | repeats v idle => exact hi.idle_write idle hi.storage
  | width v idle => exact hi.idle_write idle hi.storage
  | height v idle => exact hi.idle_write idle hi.storage
  | channel v idle => exact hi.idle_write idle hi.storage
  | clockHz v idle => exact hi.idle_write idle hi.storage
  | rowDelayMs v idle => exact hi.idle_write idle hi.storage
  | passDelayMs v idle => exact hi.idle_write idle hi.storage
  | fsData b idle room => exact hi.idle_write idle (hi.storage.append room b)
  | overflow idle full => exact hi.idle_write idle hi.storage

/-! ## The obligations of R47 -/

/-- Settles O47: the reset state, with no byte in either storage, and with parameters within the bounds of R7. -/
theorem invariantHoldsAtReset : Obligations.InvariantHoldsAtReset :=
  inv_reset (p := Config.Params.atReset) (fs := []) (scratch := [])
    { params := by decide
      ptr_le := Nat.zero_le _
      fs_wf := .nil
      fs_written := fun a ha => absurd ha (Nat.not_lt_zero a)
      fs_inside := fun c hc => absurd hc List.not_mem_nil
      scratch_wf := .nil
      scratch_inside := fun c hc => absurd hc List.not_mem_nil }
    []

/-- Settles O48, by the agent whose turn it is: each step changes the parts of the invariant that one of the shapes above
names, and no other. -/
theorem stepKeepsTheInvariant : Obligations.StepKeepsTheInvariant := by
  intro s t hi h
  have hc := hi.stepSound
  have taken (r : Option Word) : State.Inv { s with hostRdata := r, agenda := s.agenda.tail } :=
    hi.interface hc.no_delay hc.presc_lt hc.pending_current hc.no_answer
  cases step_effect h with
  | micro u _ hu ha h => exact micro_keeps_inv (taken none) hu (ha.imp_left (·.trans hc.no_answer)) h
  | ignored => exact taken none
  | accept => exact acceptByte_keeps_inv (taken _)
  | host _ h => exact hostEffect_keeps_inv (taken none) h
  | tick => exact tick_keeps_inv (taken _)
  | cycle => exact clockCycle_keeps_inv (taken _)
  | reset => exact inv_reset hi.storage.rewind _

end Sys2Proof.Machine
end

section
/-! PROOF. The byte stream of a request (10_state.md R31, R48, 20_memory.md R55). -/

namespace Sys2Proof.Machine

variable {s : State}

/-- After `k` accepted handshakes of a stream presented at byte 0, `k` bytes are accepted. -/
theorem acceptByte_iterate {r : Request} {k : Nat} (hs : s.txPending = some ⟨r, 0⟩) (hk : k ≤ r.data.length) :
    acceptByte^[k] s = { s with txPending := some ⟨r, k⟩ } := by
  induction k with
  | zero => rw [← hs]; rfl
  | succ k ih =>
    rw [Function.iterate_succ_apply', ih (by omega)]
    exact acceptByte_of_pending rfl hk

/-- Settles O56, by induction on the number of handshakes. -/
theorem byteStreamDeliversTheRequest : Obligations.ByteStreamDeliversTheRequest := by
  refine ⟨fun s r k hs hk => ?_, fun s => acceptByte_of_no_data, fun c f bs => ⟨rfl, rfl, rfl⟩⟩
  have hk' := acceptByte_iterate hs hk
  exact ⟨hk', by rw [hk']; rfl⟩

end Sys2Proof.Machine
end

section
/-! PROOF. The fields of the STATUS word (10_state.md R41). -/

namespace Sys2Proof.Machine

variable {s : State}

/-- A field of the STATUS word is the value whose bits stand at its place. -/
theorem extractLsb'_statusWord {lo n : Nat} {v : BitVec n}
    (h : ∀ i, i < n → s.statusWord.getLsbD (lo + i) = v.getLsbD i) : s.statusWord.extractLsb' lo n = v := by
  refine BitVec.eq_of_getLsbD_eq fun i hi => ?_
  rw [BitVec.getLsbD_extractLsb', decide_eq_true hi, Bool.true_and, h i hi]

theorem statusWord_state {p : Phase} (h : s.state = p) : s.statusWord.extractLsb' 0 3 = p.code := by
  refine extractLsb'_statusWord fun i hi => ?_
  simp (disch := omega) only [statusWord_getLsbD, Nat.zero_add, if_pos, h]

theorem statusWord_err {e : ErrCode} (h : s.err = e) : s.statusWord.extractLsb' 8 4 = e.code := by
  refine extractLsb'_statusWord fun i hi => ?_
  simp (disch := omega) only [statusWord_getLsbD, if_neg, if_pos, Nat.add_sub_cancel_left, h]

theorem statusWord_stepCode : s.statusWord.extractLsb' 16 4 = s.stepCode := by
  refine extractLsb'_statusWord fun i hi => ?_
  simp (disch := omega) only [statusWord_getLsbD, if_neg, if_pos, Nat.add_sub_cancel_left]

/-- The reserved fields of STATUS stand within bits 7:6, 15:13 and 31:20. -/
theorem statusWord_reserved {lo n : Nat}
    (h : (6 ≤ lo ∧ lo + n ≤ 8) ∨ (13 ≤ lo ∧ lo + n ≤ 16) ∨ 20 ≤ lo) : s.statusWord.extractLsb' lo n = 0#n := by
  refine extractLsb'_statusWord fun i hi => ?_
  rw [BitVec.getLsbD_zero]
  rcases h with h | h | h <;> simp (disch := omega) only [statusWord_getLsbD, if_neg, if_pos]

theorem statusWord_busy :
    s.statusWord.getLsbD 3 = true ↔ s.state = .configuring ∨ s.state = .running ∨ s.state = .blanking := by
  rw [statusWord_getLsbD]
  simp [State.busy, or_assoc]

theorem statusWord_done : s.statusWord.getLsbD 4 = true ↔ s.state = .terminated := by
  rw [statusWord_getLsbD]
  simp [State.done]

theorem statusWord_fail : s.statusWord.getLsbD 5 = true ↔ s.state = .failed := by
  rw [statusWord_getLsbD]
  simp [State.fail]

theorem statusWord_fsOvf : s.statusWord.getLsbD 12 = s.fsOvf := by
  rw [statusWord_getLsbD]
  simp

/-- Settles O9: RD_STATUS returns the STATUS word, field by field. -/
theorem statusWordFields : Obligations.StatusWordFields :=
  ⟨by decide, fun s => ⟨s.statusWord, rfl,
    statusWord_state, statusWord_state, statusWord_state, statusWord_state, statusWord_state, statusWord_state,
    statusWord_busy, statusWord_done, statusWord_fail, statusWord_reserved (by omega),
    statusWord_err, statusWord_err, statusWord_err, statusWord_err, statusWord_err, statusWord_err, statusWord_err,
    statusWord_err, statusWord_err, statusWord_err,
    statusWord_fsOvf, statusWord_reserved (by omega), statusWord_stepCode, statusWord_reserved (by omega)⟩⟩

end Sys2Proof.Machine
end

section
/-! PROOF. Outside `IDLE` the configuration and the frame store stand still (20_memory.md R66, 10_state.md R47). -/

namespace Sys2Proof.Machine

variable {s t : State}

/-- The configuration lock (R161): outside `IDLE` a host transaction changes at most the read data. -/
theorem HostEffect.eq_of_locked (h : HostEffect s t) (hs : s.state ≠ .idle) : ∃ r, t = { s with hostRdata := r } := by
  cases h with
  | read v => exact ⟨some v, rfl⟩
  | nothing => exact ⟨s.hostRdata, rfl⟩
  | ctrl _ idle | repeats _ idle | width _ idle | height _ idle | channel _ idle | clockHz _ idle | rowDelayMs _ idle
  | passDelayMs _ idle | fsData _ idle _ | overflow idle _ => exact absurd idle hs

/-- Outside `IDLE` a step that is no reset runs the current micro-operation, or changes at most the delay timer, the
place in the byte stream, the read data and the agenda. -/
theorem step_locked (h : step s = .next t) (hs : s.state ≠ .idle) (hr : s.nextTurn ≠ .reset) :
    (∃ a, exec (decodeStep s.stepCode) { s with hostRdata := none, agenda := s.agenda.tail, txAnswer := a } = .next t)
    ∨ ∃ d n q r, t =
      { s with dlyCnt := d, presc := n, txPending := q, hostRdata := r, agenda := s.agenda.tail } := by
  cases step_effect h with
  | micro u _ hu _ hexec => exact .inl ⟨u.txAnswer, hu ▸ hexec⟩
  | ignored => exact .inr ⟨_, _, _, _, rfl⟩
  | accept => exact .inr ⟨_, _, _, _, rfl⟩
  | host _ heffect =>
    obtain ⟨r, rfl⟩ := heffect.eq_of_locked hs
    exact .inr ⟨_, _, _, r, rfl⟩
  | tick => exact .inr ⟨_, _, _, _, (tick_frame _).1⟩
  | cycle => exact .inr ⟨_, _, _, _, (clockCycle_frame _).1⟩
  | reset hreset => exact absurd hreset hr

/-- Settles O46: a micro-operation keeps what is loaded, and counts `REPEATS` at PASS_END only; no other step that is
open outside `IDLE` touches either. -/
theorem nothingLoadedChangesOutsideIdle : Obligations.NothingLoadedChangesOutsideIdle := by
  intro s t hs hr h
  rcases step_locked h hs hr with ⟨a, hexec⟩ | ⟨d, n, q, r, rfl⟩
  · obtain ⟨k, hrepeats⟩ := micro_kept hexec
    exact ⟨k.fs, k.fsPtr, k.fsOvf, k.width, k.height, k.channel, k.clockHz, k.rowDelayMs, k.passDelayMs, k.gammaEn,
      k.cfg, hrepeats⟩
  · exact ⟨rfl, rfl, rfl, rfl, rfl, rfl, rfl, rfl, rfl, rfl, rfl, fun hn => absurd rfl hn⟩

end Sys2Proof.Machine
end

section
/-! PROOF. Decoding and encoding are inverse to each other, and the opcode table agrees with both (30_encoding.md R70 to
R80). -/

namespace Sys2Proof

/-! ## Decoding by direction and index -/

/-- The data of a read is ignored (R74). -/
theorem decodeHost_read (a : HostIndex) (d : Word) : decodeHost (hostWord false a d) = decodeRead a := by
  simp [decodeHost]

theorem decodeHost_write (a : HostIndex) (d : Word) : decodeHost (hostWord true a d) = decodeWrite a d := by
  simp [decodeHost]

theorem decode_encodeRead (a : HostIndex) : decode (encodeRead a) = decodeRead a := decodeHost_read a 0#32

theorem decode_encodeWrite (a : HostIndex) (d : Word) : decode (encodeWrite a d) = decodeWrite a d :=
  decodeHost_write a d

/-- The word indices: those of the three rows of reserved ones (R77), and the twelve of the registers (R75). -/
theorem hostIndex_cases (a : HostIndex) :
    indexWithin 12 15 a = true ∨ indexWithin 16 31 a = true ∨ indexWithin 32 63 a = true
    ∨ a = 0#6 ∨ a = 1#6 ∨ a = 2#6 ∨ a = 3#6 ∨ a = 4#6 ∨ a = 5#6 ∨ a = 6#6 ∨ a = 7#6 ∨ a = 8#6 ∨ a = 9#6 ∨ a = 10#6
    ∨ a = 11#6 := by
  revert a; decide

theorem decodeRead_12to15 (a : HostIndex) : indexWithin 12 15 a = true → decodeRead a = .rdRsvd12to15 a := by
  revert a; decide

theorem decodeRead_16to31 (a : HostIndex) : indexWithin 16 31 a = true → decodeRead a = .rdRsvd16to31 a := by
  revert a; decide

theorem decodeRead_32to63 (a : HostIndex) : indexWithin 32 63 a = true → decodeRead a = .rdRsvd32to63 a := by
  revert a; decide

theorem indexWithin_iff {lo hi : Nat} {a : HostIndex} :
    indexWithin lo hi a = true ↔ lo ≤ a.toNat ∧ a.toNat ≤ hi := by
  simp [indexWithin]

/-- A write from index 12 up is one of a reserved index. -/
theorem decodeWrite_reserved {a : HostIndex} (d : Word) (h : 12 ≤ a.toNat) :
    decodeWrite a d = if a.toNat < 16 then .wrRsvd12to15 a d
      else if a.toNat < 32 then .wrRsvd16to31 a d else .wrRsvd32to63 a d := by
  unfold decodeWrite
  split
  -- the thirteenth arm is that of the reserved indices; the twelve of the registers contradict `h`
  on_goal 13 => rfl
  all_goals omega

theorem decodeWrite_12to15 {a : HostIndex} (h : indexWithin 12 15 a = true) (d : Word) :
    decodeWrite a d = .wrRsvd12to15 a d := by
  obtain ⟨hlo, hhi⟩ := indexWithin_iff.mp h
  rw [decodeWrite_reserved d hlo, if_pos (by omega)]

theorem decodeWrite_16to31 {a : HostIndex} (h : indexWithin 16 31 a = true) (d : Word) :
    decodeWrite a d = .wrRsvd16to31 a d := by
  obtain ⟨hlo, hhi⟩ := indexWithin_iff.mp h
  rw [decodeWrite_reserved d (by omega), if_neg (by omega), if_pos (by omega)]

theorem decodeWrite_32to63 {a : HostIndex} (h : indexWithin 32 63 a = true) (d : Word) :
    decodeWrite a d = .wrRsvd32to63 a d := by
  obtain ⟨hlo, hhi⟩ := indexWithin_iff.mp h
  rw [decodeWrite_reserved d (by omega), if_neg (by omega), if_neg (by omega)]

/-! ## Decoding what is encoded -/

/-- Settles O1, by the kind of instruction: a micro-operation, a register's transaction, or one at a reserved index,
which its row's range tells from the others. -/
theorem decodeOfEncodeIsTheInstruction : Obligations.DecodeOfEncodeIsTheInstruction := by
  intro i hwf
  cases i with
  | waitStart | check | configure | initTransport | passTest | loadRow | encodeBuf | txPayload
  | txLatch | rowDelay | rowNext | blankFill | passDelay | passEnd | halt | stepRsvd => rfl
  | rdCtrl | rdStatus | rdRepeats | rdWidth | rdHeight | rdChannel | rdClockHz | rdRowDelayMs
  | rdPassDelayMs | rdRow | rdFsPtr | rdFsData => exact decode_encodeRead _
  | wrCtrl d | wrStatus d | wrRepeats d | wrWidth d | wrHeight d | wrChannel d | wrClockHz d
  | wrRowDelayMs d | wrPassDelayMs d | wrRow d | wrFsPtr d | wrFsData d => exact decode_encodeWrite _ d
  | rdRsvd12to15 k => exact (decode_encodeRead k).trans (decodeRead_12to15 k hwf)
  | rdRsvd16to31 k => exact (decode_encodeRead k).trans (decodeRead_16to31 k hwf)
  | rdRsvd32to63 k => exact (decode_encodeRead k).trans (decodeRead_32to63 k hwf)
  | wrRsvd12to15 k d => exact (decode_encodeWrite k d).trans (decodeWrite_12to15 hwf d)
  | wrRsvd16to31 k d => exact (decode_encodeWrite k d).trans (decodeWrite_16to31 hwf d)
  | wrRsvd32to63 k d => exact (decode_encodeWrite k d).trans (decodeWrite_32to63 hwf d)

/-! ## Encoding what is decoded -/

theorem encode_decodeStep (c : MicroCode) : (decodeStep c).wf = true ∧ encode (decodeStep c) = .step c := by
  revert c; decide

theorem encode_decodeRead (a : HostIndex) : (decodeRead a).wf = true ∧ encode (decodeRead a) = encodeRead a := by
  revert a; decide

theorem encode_decodeWrite (a : HostIndex) (d : Word) :
    (decodeWrite a d).wf = true ∧ encode (decodeWrite a d) = encodeWrite a d := by
  rcases hostIndex_cases a with
    h | h | h | rfl | rfl | rfl | rfl | rfl | rfl | rfl | rfl | rfl | rfl | rfl | rfl
  · rw [decodeWrite_12to15 h]
    exact ⟨h, rfl⟩
  · rw [decodeWrite_16to31 h]
    exact ⟨h, rfl⟩
  · rw [decodeWrite_32to63 h]
    exact ⟨h, rfl⟩
  all_goals exact ⟨rfl, rfl⟩

/-- Every host word is some `{we, addr, data}` (R74). -/
theorem exists_hostWord (w : HostWord) : ∃ we a d, w = hostWord we a d :=
  ⟨hostWe w, hostAddr w, hostData w, (hostWord_fields w).symm⟩

/-- Clearing the data of a host word, as R74 asks of an encoded read. -/
theorem ofNat_clear_data (we : Bool) (a : HostIndex) (d : Word) :
    BitVec.ofNat 39 ((hostWord we a d).toNat / 2 ^ 32 * 2 ^ 32) = hostWord we a 0#32 := by
  have hd := d.isLt
  have hclear : (hostWord we a d).toNat / 2 ^ 32 * 2 ^ 32 = (hostWord we a 0#32).toNat := by
    rw [hostWord_toNat, hostWord_toNat, BitVec.toNat_zero]
    omega
  rw [hclear, BitVec.ofNat_toNat, BitVec.setWidth_eq]

/-- Settles O2, by the encoding space, and in that of the host by the direction. -/
theorem encodeOfDecodeIsTheWord : Obligations.EncodeOfDecodeIsTheWord := by
  refine ⟨encode_decodeStep, fun w => ?_⟩
  obtain ⟨we, a, d, rfl⟩ := exists_hostWord w
  have hwe : (hostWord we a d).getLsbD 38 = we := hostWe_hostWord we a d
  rw [hwe, ofNat_clear_data]
  cases we with
  | false =>
    obtain ⟨hwf, henc⟩ := encode_decodeRead a
    rw [decodeHost_read]
    exact ⟨hwf, fun h => (Bool.false_ne_true h).elim, fun _ => henc⟩
  | true =>
    obtain ⟨hwf, henc⟩ := encode_decodeWrite a d
    rw [decodeHost_write]
    exact ⟨hwf, fun _ => henc, fun h => (Bool.false_ne_true h.symm).elim⟩

/-! ## The opcode table -/

/-- The mask and match of every host row stand above the data bits. -/
theorem hostRows_above_data :
    ∀ r ∈ hostRows, r = ⟨r.mnemonic, r.mask / 2 ^ 32 * 2 ^ 32, r.value / 2 ^ 32 * 2 ^ 32⟩ := by
  decide

/-- A host row selects a word by its `{we, addr}` alone. -/
theorem hostRow_selects_clear_data {r : OpcodeRow} (hr : r ∈ hostRows) (we : Bool) (a : HostIndex) (d : Word) :
    r.selects (hostWord we a d).toNat = r.selects (hostWord we a 0#32).toNat := by
  rw [hostRows_above_data r hr]
  exact (selects_hostWord _ _ _ we a d).trans (selects_hostWord _ _ _ we a 0#32).symm

theorem mnemonic_decodeWrite (a : HostIndex) (d : Word) :
    (decodeWrite a d).mnemonic = (decodeWrite a 0#32).mnemonic := by
  rcases hostIndex_cases a with
    h | h | h | rfl | rfl | rfl | rfl | rfl | rfl | rfl | rfl | rfl | rfl | rfl | rfl
  · rw [decodeWrite_12to15 h, decodeWrite_12to15 h]
    rfl
  · rw [decodeWrite_16to31 h, decodeWrite_16to31 h]
    rfl
  · rw [decodeWrite_32to63 h, decodeWrite_32to63 h]
    rfl
  all_goals rfl

theorem mnemonic_decodeHost (we : Bool) (a : HostIndex) (d : Word) :
    (decodeHost (hostWord we a d)).mnemonic = (decodeHost (hostWord we a 0#32)).mnemonic := by
  cases we with
  | false => rw [decodeHost_read, decodeHost_read]
  | true => rw [decodeHost_write, decodeHost_write, mnemonic_decodeWrite]

/-- Of the host rows, the one of the decoded transaction alone selects a word with no data. -/
theorem hostRows_select_clear_data (we : Bool) (a : HostIndex) :
    (hostRows.filter fun r => r.selects (hostWord we a 0#32).toNat).map (·.mnemonic)
      = [(decodeHost (hostWord we a 0#32)).mnemonic] := by
  revert a
  cases we <;> decide

theorem stepRows_select (c : MicroCode) :
    (stepRows.filter fun r => r.selects c.toNat).map (·.mnemonic) = [(decodeStep c).mnemonic] := by
  revert c; decide

/-- Settles O3: neither the rows that select a host word nor its mnemonic depend on its data, and for each `{we, addr}`
one row is left. -/
theorem everyCodeHasExactlyOneRow : Obligations.EveryCodeHasExactlyOneRow := by
  refine ⟨fun w => ?_, stepRows_select⟩
  obtain ⟨we, a, d, rfl⟩ := exists_hostWord w
  rw [List.filter_congr fun r hr => hostRow_selects_clear_data hr we a d, mnemonic_decodeHost]
  exact hostRows_select_clear_data we a

/-- Settles O4, by running the decoder. -/
theorem writtenWordsDecode : Obligations.WrittenWordsDecode :=
  ⟨rfl, rfl, rfl, rfl, rfl, rfl, rfl, rfl, rfl, rfl⟩

end Sys2Proof
end

section
/-! PROOF. The legal pairs (`STATE`, `STEP`): the edges of the transition table lead from one to another, and the
sequencer's turn faults at every other pair (30_encoding.md R73, 41_sequencer.md R120). -/

namespace Sys2Proof.Machine

variable {s t u : State}

/-- The step from `u` to `t` leaves (`STATE`, `STEP`) as it is, or takes an edge of the transition table. -/
def StaysOrTakesEdge (u t : State) : Prop :=
  (t.state = u.state ∧ t.stepCode = u.stepCode) ∨ isEdge u.state u.stepCode t.state t.stepCode = true

/-- A request that goes on to a micro-operation of the same state takes an edge, when answered, where the table has one
to that micro-operation and one to `FAILED`. -/
theorem Requested.staysOrTakesEdge {r : Request} {event : Answer → Event} {code : ErrCode} {onOk : State → State}
    (h : Requested r event code onOk u t)
    (hok : ∀ v : State, v.state = u.state → isEdge u.state u.stepCode (onOk v).state (onOk v).stepCode = true)
    (herr : isEdge u.state u.stepCode .failed StepCode.halt = true) : StaysOrTakesEdge u t := by
  rcases h with ⟨-, rfl⟩ | ⟨-, rfl⟩ | ⟨-, rfl⟩
  · exact .inl ⟨rfl, rfl⟩
  · exact .inr (hok _ rfl)
  · exact .inr herr

/-- Every micro-operation stays at its pair or takes an edge of the transition table (R120). -/
theorem micro_staysOrTakesEdge {c : MicroCode} (e : u.stepCode = c) (h : exec (decodeStep c) u = .next t) :
    StaysOrTakesEdge u t := by
  rcases stepCode_cases c with
    rfl | rfl | rfl | rfl | rfl | rfl | rfl | rfl | rfl | rfl | rfl | rfl | rfl | rfl | rfl | rfl
  · obtain ⟨-, rfl⟩ := exec_waitStart_next h
    exact .inl ⟨rfl, rfl⟩
  · obtain ⟨hs, ⟨_, -, rfl⟩ | ⟨-, rfl⟩⟩ := exec_check_next h <;> exact .inr (by simp [hs, e, isEdge])
  · obtain ⟨hs, hr⟩ := exec_configure_next h
    exact hr.staysOrTakesEdge (fun v hv => by simp [hv, hs, e, isEdge]) (by simp [hs, e, isEdge])
  · obtain ⟨hs, hr⟩ := exec_initTransport_next h
    exact hr.staysOrTakesEdge (fun v hv => by simp [hv, hs, e, isEdge]) (by simp [hs, e, isEdge])
  · obtain ⟨hs, ⟨-, rfl⟩ | ⟨-, rfl⟩⟩ := exec_passTest_next h <;> exact .inr (by simp [hs, e, isEdge])
  · obtain ⟨hs, _, -, -, -, rfl⟩ := exec_loadRow_next h
    exact .inr (by simp [hs, e, isEdge])
  · obtain ⟨hs | hs, _, -, -, -, rfl⟩ := exec_encodeBuf_next h <;> exact .inr (by simp [hs, e, isEdge])
  · obtain ⟨hs | hs, _, -, -, hr⟩ := exec_txPayload_next h <;>
      exact hr.staysOrTakesEdge (fun v hv => by simp [hv, hs, e, isEdge]) (by simp [hs, e, isEdge])
  · obtain ⟨hs | hs, hr⟩ := exec_txLatch_next h <;>
      exact hr.staysOrTakesEdge (fun v hv => by simp [startDelay, hv, hs, e, isEdge]) (by simp [hs, e, isEdge])
  · obtain ⟨hs, ⟨-, rfl⟩ | ⟨-, rfl⟩⟩ := exec_rowDelay_next h
    · exact .inr (by simp [hs, e, isEdge])
    · exact .inl ⟨rfl, rfl⟩
  · obtain ⟨hs, ⟨-, rfl⟩ | ⟨-, rfl⟩⟩ := exec_rowNext_next h <;> exact .inr (by simp [hs, e, isEdge])
  · obtain ⟨hs, -, rfl⟩ := exec_blankFill_next h
    exact .inr (by simp [hs, e, isEdge])
  · obtain ⟨hs, ⟨-, rfl⟩ | ⟨-, rfl⟩⟩ := exec_passDelay_next h
    · exact .inr (by simp [hs, e, isEdge])
    · exact .inl ⟨rfl, rfl⟩
  · obtain ⟨hs, ⟨-, rfl⟩ | ⟨-, rfl⟩⟩ := exec_passEnd_next h <;> exact .inr (by simp [hs, e, isEdge])
  · obtain ⟨-, rfl⟩ := exec_halt_next h
    exact .inl ⟨rfl, rfl⟩
  · exact (exec_stepRsvd_next h).elim

/-- A host transaction stays at its pair, or START in `IDLE` takes the edge to CHECK (R162). -/
theorem HostEffect.staysOrTakesEdge (h : HostEffect s t) (hl : s.state ∈ legalPhases s.stepCode) :
    StaysOrTakesEdge s t := by
  cases h with
  | ctrl data idle =>
    have hc := stepCode_of_idle_legal _ (idle ▸ hl)
    cases ctrlStart data with
    | true => exact .inr (by simp [idle, hc, isEdge])
    | false => cases ctrlFsReset data <;> exact .inl ⟨rfl, rfl⟩
  | read | nothing | repeats | width | height | channel | clockHz | rowDelayMs | passDelayMs | fsData | overflow =>
    exact .inl ⟨rfl, rfl⟩

/-- From a legal pair a step stays there, takes an edge of the transition table, or is a reset (R120). -/
theorem step_staysOrTakesEdge (hl : s.state ∈ legalPhases s.stepCode) (h : step s = .next t) :
    StaysOrTakesEdge s t ∨ (s.nextTurn = .reset ∧ t.state = .idle ∧ t.stepCode = StepCode.waitStart) := by
  cases step_effect h with
  | micro u _ hu _ hexec =>
    have hedge := micro_staysOrTakesEdge (congrArg State.stepCode hu) hexec
    rw [hu] at hedge
    exact .inl hedge
  | ignored => exact .inl (.inl ⟨rfl, rfl⟩)
  | accept => exact .inl (.inl ⟨rfl, rfl⟩)
  | host _ heffect => exact .inl (heffect.staysOrTakesEdge hl)
  | tick =>
    rw [(tick_frame _).1]
    exact .inl (.inl ⟨rfl, rfl⟩)
  | cycle =>
    rw [(clockCycle_frame _).1]
    exact .inl (.inl ⟨rfl, rfl⟩)
  | reset hreset => exact .inr ⟨hreset, rfl, rfl⟩

/-- Every edge of the table leads to a legal pair. -/
theorem legal_of_isEdge {p p' : Phase} {c c' : MicroCode} (h : isEdge p c p' c' = true) : p' ∈ legalPhases c' := by
  have hmem := of_decide_eq_true h
  refine (?_ : ∀ e ∈ _, e.2.2.1 ∈ legalPhases e.2.2.2) _ hmem
  decide

theorem StaysOrTakesEdge.legal (h : StaysOrTakesEdge s t) (hl : s.state ∈ legalPhases s.stepCode) :
    t.state ∈ legalPhases t.stepCode := by
  rcases h with ⟨hs, hc⟩ | h
  · rwa [hs, hc]
  · exact legal_of_isEdge h

/-- A micro-operation that finds a state its code may not stand in faults (I7). -/
theorem micro_faults_of_illegal {c : MicroCode} (h : u.state ∉ legalPhases c) :
    ∃ f, exec (decodeStep c) u = .fault f := by
  rcases stepCode_cases c with
    rfl | rfl | rfl | rfl | rfl | rfl | rfl | rfl | rfl | rfl | rfl | rfl | rfl | rfl | rfl | rfl
  -- the last code is the reserved one, which faults in every state; the others check their pair first
  on_goal 16 => exact ⟨.reservedStep, rfl⟩
  all_goals exact ⟨_, onLegalPair_of_not_mem _ h⟩

/-- Settles O38: the listed pairs are computed, every edge of the transition table leads to one of them, and a
micro-operation runs only where its code may stand. -/
theorem illegalPairsFault : Obligations.IllegalPairsFault := by
  refine ⟨fun p c => ?_, fun s t hl h => ?_, fun s hl hn => ?_⟩
  · revert c
    cases p <;> decide
  · rcases step_staysOrTakesEdge hl h with hedge | ⟨-, hs, hc⟩
    · exact hedge.legal hl
    · rw [hs, hc]
      decide
  · rw [step_sequencer hn]
    exact micro_faults_of_illegal hl

end Sys2Proof.Machine
end

section
/-! PROOF. A LOAD stores its bytes in order (30_encoding.md R82, 42_host_interface.md R184, 70_reset_and_hazards.md
R241). -/

namespace Sys2Proof.Machine

variable {s : State}

/-- The host turn that writes a byte to FS_DATA, as a LOAD has it (R82). -/
abbrev fsDataTurn (b : Byte) : Turn := .host (hostWord true 11#6 (b.setWidth 32))

theorem byteOperand_setWidth (b : Byte) : byteOperand (b.setWidth 32) = b := by
  rw [byteOperand, ← BitVec.setWidth_eq_extractLsb' (by decide), BitVec.setWidth_setWidth_of_le _ (by decide),
    BitVec.setWidth_eq]

theorem decodeHost_fsData (d : Word) : decodeHost (hostWord true 11#6 d) = .wrFsData d :=
  decodeHost_write 11#6 d

/-- R184, with room: the byte is stored at `FS_PTR`, which advances. -/
theorem exec_wrFsData_room (hs : s.state = .idle) (hroom : s.fsPtr.toNat < s.cfg.fsBytes) (d : Word) :
    exec (.wrFsData d) s = .next (fsAppend (byteOperand d) s) := by
  show Host.Outcome.next (whenIdle _ s) = _
  rw [whenIdle_idle hs, if_pos hroom]

theorem step_fsData {b : Byte} {rest : List Turn} (hs : s.state = .idle) (hroom : s.fsPtr.toNat < s.cfg.fsBytes)
    (h : s.agenda = fsDataTurn b :: rest) :
    step s = .next (fsAppend b { s with hostRdata := none, agenda := rest }) := by
  have hexec := exec_wrFsData_room (s := { s with hostRdata := none, agenda := rest }) hs hroom (b.setWidth 32)
  rw [byteOperand_setWidth] at hexec
  rw [step_host (nextTurn_of h), h, decodeHost_fsData]
  exact hexec

/-- `FS_PTR` does not wrap where the frame store has room, since `FS_BYTES` is below 2^32 (R7). -/
theorem fsPtr_succ_toNat (hp : s.cfg.legal) (hroom : s.fsPtr.toNat < s.cfg.fsBytes) :
    (s.fsPtr + 1#32).toNat = s.fsPtr.toNat + 1 := by
  obtain ⟨-, -, -, hmax, -⟩ := hp
  simp only [BitVec.toNat_add, BitVec.toNat_ofNat]
  omega

/-- A LOAD with room for its bytes writes them to consecutive addresses from `FS_PTR` up. -/
theorem run_load (hp : s.cfg.legal) (hs : s.state = .idle) {bs : List Byte} {rest : List Turn}
    (hroom : s.fsPtr.toNat + bs.length ≤ s.cfg.fsBytes) (h : s.agenda = bs.map fsDataTurn ++ rest) :
    ∃ ptr r, Host.Core.run core bs.length s = .next { s with
        fs := s.fs.writeBytes s.fsPtr.toNat bs, fsPtr := ptr, hostRdata := r, agenda := rest }
      ∧ ptr.toNat = s.fsPtr.toNat + bs.length := by
  induction bs generalizing s with
  | nil => exact ⟨s.fsPtr, s.hostRdata, by rw [← show s.agenda = rest from h]; rfl, rfl⟩
  | cons b bs ih =>
    rw [List.length_cons] at hroom
    have hstep := step_fsData hs (by omega) h
    have hptr := fsPtr_succ_toNat hp (by omega)
    have hroom' : (s.fsPtr + 1#32).toNat + bs.length ≤ s.cfg.fsBytes := by omega
    obtain ⟨ptr, r, hrun, hlen⟩ := ih
      (s := fsAppend b { s with hostRdata := none, agenda := bs.map fsDataTurn ++ rest }) hp hs hroom' rfl
    simp only [fsAppend_fsPtr, fsAppend_fs, hptr] at hrun hlen
    exact ⟨ptr, r, (run_succ hstep).trans hrun, by rw [hlen, List.length_cons]; omega⟩

/-- Settles O16: a LOAD is one write of consecutive bytes, and such a write reads back byte by byte. -/
theorem loadStoresBytesInOrder : Obligations.LoadStoresBytesInOrder := by
  intro bs rest s hp hs hroom h
  obtain ⟨ptr, r, hrun, hptr⟩ := run_load hp hs hroom h
  refine ⟨_, hrun, fun j hj => ?_, fun a ha => ?_, hptr, rfl⟩
  · simp [Memory.read_writeBytes, hj]
  · rw [Memory.read_writeBytes, if_neg (by omega)]

end Sys2Proof.Machine
end

section
/-! PROOF. The encoder's datapath: GAMMA, PACK, REORDER and ENCODE (40_encoder.md R101 to R105). -/

namespace Sys2Proof.Machine

/-! ## PACK (R103) -/

theorem pack_toNat (v : Byte) : (pack v).toNat = 128 + v.toNat / 2 := by
  have hlt : v.toNat / 2 < 2 ^ 7 := by omega
  have hor := Nat.two_pow_add_eq_or_of_lt hlt 1
  rw [pack, Config.marker, BitVec.toNat_or, BitVec.toNat_ushiftRight, Nat.shiftRight_eq_div_pow, Nat.or_comm]
  exact hor.symm

/-- Bits 6:0: the marker stands above them. -/
theorem pack_low_bits (v : Byte) : (pack v).extractLsb' 0 7 = (v >>> 1).extractLsb' 0 7 := by
  rw [pack, BitVec.extractLsb'_or, show Config.marker.extractLsb' 0 7 = 0#7 by decide, BitVec.or_zero]

theorem pack_marked (v : Byte) : (pack v).getLsbD 7 = true := by
  rw [pack, BitVec.getLsbD_or, show Config.marker.getLsbD 7 = true by decide, Bool.or_true]

theorem pack_ne_zero (v : Byte) : pack v ≠ 0x00#8 := by
  intro h
  have hlow := congrArg BitVec.toNat h
  rw [pack_toNat] at hlow
  simp at hlow

theorem pack_eq_self_iff {v : Byte} : pack v = v ↔ v = 0xFF#8 := by
  rw [BitVec.toNat_eq, BitVec.toNat_eq, pack_toNat, BitVec.toNat_ofNat]
  omega

/-- Settles O19: PACK as a number gives its fixed point, and the marker is bit 7. -/
theorem packValues : Obligations.PackValues := fun v =>
  ⟨pack_toNat v, pack_low_bits v, pack_marked v, pack_eq_self_iff⟩

theorem pack_pack (v : Byte) : pack (pack v) = (v >>> 2) ||| 0xC0#8 := by
  rw [pack, pack, BitVec.ushiftRight_or_distrib, ← BitVec.shiftRight_add, BitVec.or_assoc]
  rfl

/-- PACK twice has the fixed point of PACK, and no other. -/
theorem pack_pack_eq_self_iff {v : Byte} : pack (pack v) = v ↔ v = 0xFF#8 := by
  rw [BitVec.toNat_eq, BitVec.toNat_eq, pack_toNat, pack_toNat, BitVec.toNat_ofNat]
  omega

/-! ## GAMMA (R101) -/

/-- From 1 on the source's formula is at least 255, before it is clamped. -/
theorem le_floor_literal_gamma {x : ℝ} (hx : 1 ≤ x) : 255 ≤ ⌊255 * x ^ (2.5 : ℝ) + 0.5⌋₊ := by
  have hpow : 1 ≤ x ^ (2.5 : ℝ) := Real.one_le_rpow hx (by norm_num)
  refine Nat.le_floor ?_
  push_cast
  linarith

/-- Settles O20: at 0 the power is 0, and from 1 on the clamp applies. -/
theorem gammaIsTheLiteralFormula : Obligations.GammaIsTheLiteralFormula := by
  intro v
  by_cases hv : v = 0x00#8
  · subst hv
    refine ⟨?_, rfl, rfl⟩
    have hzero : (0 : ℝ) ^ (2.5 : ℝ) = 0 := Real.zero_rpow (by norm_num)
    norm_num [gamma, hzero]
  · have hgamma : gamma v = 0xFF#8 := if_neg hv
    have hpos : v.toNat ≠ 0 := fun h => hv (BitVec.eq_of_toNat_eq h)
    have hone : (1 : ℝ) ≤ v.toNat := by exact_mod_cast Nat.one_le_iff_ne_zero.mpr hpos
    refine ⟨?_, rfl, by rw [hgamma]; rfl⟩
    rw [hgamma, div_one, min_eq_left (le_floor_literal_gamma hone)]
    rfl

/-! ## REORDER and ENCODE (R102, R104, R105) -/

theorem reorder_reorder (t : Byte × Byte × Byte) : reorder (reorder t) = t := rfl

theorem getElem?_reorderTriples : ∀ (bs : List Byte) (k : Nat), 3 * k + 2 < bs.length →
    (reorderTriples bs)[3 * k]? = bs[3 * k + 1]? ∧ (reorderTriples bs)[3 * k + 1]? = bs[3 * k]?
      ∧ (reorderTriples bs)[3 * k + 2]? = bs[3 * k + 2]?
  | _ :: _ :: _ :: _, 0, _ => ⟨rfl, rfl, rfl⟩
  | _ :: _ :: _ :: rest, k + 1, h => by
    refine getElem?_reorderTriples rest k ?_
    simp only [List.length_cons] at h
    omega

/-- Settles O21, by induction on the triples for REORDER; PACK then applies byte by byte. -/
theorem encodeBufferByTriples : Obligations.EncodeBufferByTriples := by
  refine fun bs _ => ⟨length_encodeBuffer bs, fun k hk => ?_⟩
  obtain ⟨h0, h1, h2⟩ := getElem?_reorderTriples bs k hk
  simp only [encodeBuffer, List.getElem?_map, h0, h1, h2, and_self]

/-- REORDER moves bytes and looks at none. -/
theorem reorderTriples_map (f : Byte → Byte) : ∀ bs, reorderTriples (bs.map f) = (reorderTriples bs).map f
  | [] | [_] | [_, _] => rfl
  | t0 :: t1 :: t2 :: rest => congrArg (f t1 :: f t0 :: f t2 :: ·) (reorderTriples_map f rest)

theorem reorderTriples_reorderTriples : ∀ bs, reorderTriples (reorderTriples bs) = bs
  | [] | [_] | [_, _] => rfl
  | t0 :: t1 :: t2 :: rest => congrArg (t0 :: t1 :: t2 :: ·) (reorderTriples_reorderTriples rest)

/-- ENCODE twice packs every byte twice, in place. -/
theorem encodeBuffer_encodeBuffer (bs : List Byte) :
    encodeBuffer (encodeBuffer bs) = bs.map fun v => pack (pack v) := by
  rw [encodeBuffer, encodeBuffer, reorderTriples_map, reorderTriples_reorderTriples, List.map_map]
  rfl

/-- A map is the identity on a list exactly when it fixes every member. -/
theorem map_eq_self_iff {α : Type} {f : α → α} {l : List α} : l.map f = l ↔ ∀ a ∈ l, f a = a := by
  conv_lhs => rhs; rw [← List.map_id l]
  exact List.map_inj_left

/-- Settles O22: REORDER commutes with a map of bytes and is an involution, so ENCODE twice is PACK twice. -/
theorem encoderAlgebra : Obligations.EncoderAlgebra := by
  refine ⟨reorder_reorder, pack_pack, fun bs _ =>
    ⟨reorderTriples_map pack bs, reorderTriples_reorderTriples bs, ?_, ?_, ?_⟩⟩
  · simp only [encodeBuffer_encodeBuffer, pack_pack]
  · simp only [encodeBuffer_encodeBuffer, map_eq_self_iff, pack_pack_eq_self_iff]
  · intro v hv
    obtain ⟨b, -, rfl⟩ := List.mem_map.mp hv
    exact ⟨pack_marked b, pack_ne_zero b⟩

end Sys2Proof.Machine
end

section
/-! PROOF. In a history of the transmit protocol every payload is marked and followed by its latch (40_encoder.md R107,
R108). -/

namespace Sys2Proof.Machine

variable {p q : Protocol}

theorem Protocol.after_cons {e : Event} {l : List Event} (h : Protocol.after p (e :: l) = some q) :
    ∃ r, p.next e = some r ∧ Protocol.after r l = some q := by
  rw [Protocol.after] at h
  split at h
  · exact ⟨_, ‹_›, h⟩
  · cases h

/-- Every event of a history of the protocol is in order where it stands, and so are the events after it. -/
theorem Protocol.after_of_append {k l : List Event} {e : Event} (h : Protocol.after p (k ++ e :: l) = some q) :
    ∃ p₁ p₂ : Protocol, p₁.next e = some p₂ ∧ Protocol.after p₂ l = some q := by
  induction k generalizing p with
  | nil => exact ⟨p, Protocol.after_cons h⟩
  | cons x k ih =>
    obtain ⟨r, -, hr⟩ := Protocol.after_cons h
    exact ih hr

/-- Where a latch is owed, only its write is in order (R107). -/
theorem Protocol.next_owesLatch {c : BitVec 8} {e : Event} (h : (Protocol.owesLatch c).next e = some q) :
    ∃ a, e = .write c latch a := by
  cases e with
  | write c' bs a =>
    rcases Protocol.next_write h with ⟨hready, -, -⟩ | ⟨howes, rfl, -⟩
    · cases hready
    · cases howes
      exact ⟨a, rfl⟩
  | configure | initTransport | delayDone => cases h

theorem Protocol.after_owesLatch {c : BitVec 8} {l : List Event} (h : Protocol.after (.owesLatch c) l = some q) :
    l = [] ∨ ∃ a, l[0]? = some (.write c latch a) := by
  cases l with
  | nil => exact .inl rfl
  | cons e l =>
    obtain ⟨_, hnext, -⟩ := Protocol.after_cons h
    obtain ⟨a, rfl⟩ := Protocol.next_owesLatch hnext
    exact .inr ⟨a, rfl⟩

theorem isPayload_iff {bs : List Byte} :
    isPayload bs = true ↔ bs ≠ [] ∧ bs.length % 3 = 0 ∧ ∀ b ∈ bs, 0x80 ≤ b.toNat := by
  simp [isPayload, and_assoc]

/-- Settles O52: an event of the history is in order where it stands, so a write is a payload or a latch, and after a
payload answered `Ok` only its latch is in order. -/
theorem protocolFramesEveryPayload : Obligations.ProtocolFramesEveryPayload := by
  refine fun h _ hh => ⟨fun c bs a hmem => ?_, fun i c bs hi hne => ?_⟩
  · obtain ⟨k, l, rfl⟩ := List.append_of_mem hmem
    obtain ⟨_, _, hnext, -⟩ := Protocol.after_of_append hh
    rcases Protocol.next_write hnext with ⟨-, hpay, -⟩ | ⟨-, hlatch, -⟩
    · obtain ⟨hnil, -, hmark⟩ := isPayload_iff.mp hpay
      exact .inl ⟨hnil, hmark⟩
    · exact .inr hlatch
  · obtain ⟨hlt, he⟩ := List.getElem?_eq_some_iff.mp hi
    have hsplit : h = h.take i ++ .write c bs .ok :: h.drop (i + 1) := by
      rw [← he, List.getElem_cons_drop, List.take_append_drop]
    rw [hsplit] at hh
    obtain ⟨_, _, hnext, hrest⟩ := Protocol.after_of_append hh
    rcases Protocol.next_write hnext with ⟨-, -, rfl⟩ | ⟨-, hlatch, -⟩
    · rcases Protocol.after_owesLatch hrest with hend | ⟨a, ha⟩
      · rw [List.drop_eq_nil_iff] at hend
        exact .inl (by omega)
      · rw [List.getElem?_drop] at ha
        exact .inr ⟨a, ha⟩
    · exact absurd hlatch hne

end Sys2Proof.Machine
end

section
/-! PROOF. Every step keeps the history in the transmit protocol (40_encoder.md R107, 41_sequencer.md R139). -/

namespace Sys2Proof.Machine

variable {s t u : State} {p q : Protocol} {c : MicroCode}

/-! ## Where the protocol stands at each micro-operation -/

/-- The one place where the protocol stands when the sequencer is at its current micro-operation; in `FAILED` there is
more than one. -/
def State.StandsAt (s : State) (p : Protocol) : Prop := ∀ p', s.ProtocolAt p' ↔ p' = p

theorem State.StandsAt.protocolAt (h : s.StandsAt p) : s.ProtocolAt p := (h p).mpr rfl

theorem standsAt_idle (hs : s.state = .idle) : s.StandsAt .start := fun _ => by
  rw [State.ProtocolAt, hs]

theorem standsAt_check (hs : s.state = .configuring) (hc : s.stepCode = StepCode.check) : s.StandsAt .start :=
  fun _ => by rw [State.ProtocolAt, hs, hc]; rfl

theorem standsAt_configure (hs : s.state = .configuring) (hc : s.stepCode = StepCode.configure) : s.StandsAt .start :=
  fun _ => by rw [State.ProtocolAt, hs, hc]; rfl

theorem standsAt_initTransport (hs : s.state = .configuring) (hc : s.stepCode = StepCode.initTransport) :
    s.StandsAt .configured := fun _ => by rw [State.ProtocolAt, hs, hc]; rfl

theorem standsAt_passTest (hs : s.state = .configuring) (hc : s.stepCode = StepCode.passTest) : s.StandsAt .ready :=
  fun _ => by rw [State.ProtocolAt, hs, hc]; rfl

theorem standsAt_txLatch (hs : s.state = .running ∨ s.state = .blanking) (hc : s.stepCode = StepCode.txLatch) :
    s.StandsAt (.owesLatch s.channel) := fun _ => by
  rcases hs with hs | hs <;> rw [State.ProtocolAt, hs, hc] <;> rfl

theorem standsAt_delay (hs : s.state = .running ∨ s.state = .blanking) (hc : s.stepCode = c)
    (hd : isDelayStep c = true) : s.StandsAt .owesDelay := fun _ => by
  have hn : c ≠ StepCode.txLatch := by rintro rfl; cases hd
  rcases hs with hs | hs <;> simp only [State.ProtocolAt, hs, hc, if_neg hn, if_pos hd]

/-- In a pass a payload is due at every micro-operation but the latch and the delays. -/
theorem standsAt_pass (hs : s.state = .running ∨ s.state = .blanking) (hc : s.stepCode = c)
    (hn : c ≠ StepCode.txLatch ∧ isDelayStep c = false) : s.StandsAt .ready := fun _ => by
  rcases hs with hs | hs <;> simp [State.ProtocolAt, hs, hc, hn]

theorem standsAt_terminated (hs : s.state = .terminated) : s.StandsAt .ready := fun _ => by
  rw [State.ProtocolAt, hs]

theorem protocolAt_failed (hs : s.state = .failed) : s.ProtocolAt p ↔ p = .start ∨ p = .dead := by
  rw [State.ProtocolAt, hs]

theorem Protocol.ready_next_payload {bs : List Byte} (h : isPayload bs = true) (ch : BitVec 8) (a : Answer) :
    Protocol.ready.next (.write ch bs a) = some (if a = .ok then .owesLatch ch else .dead) := if_pos h

theorem Protocol.owesLatch_next_latch (ch : BitVec 8) (a : Answer) :
    (Protocol.owesLatch ch).next (.write ch latch a) = some (if a = .ok then .owesDelay else .dead) :=
  if_pos ⟨rfl, rfl⟩

/-! ## Shapes of a step that keep the history in the protocol -/

/-- The place where the sequencer stands is the one to which the history leads. -/
theorem State.InProtocol.after_eq (h : s.InProtocol) (hs : s.StandsAt p) :
    Protocol.after .start s.history = some p := by
  obtain ⟨p', hafter, hat⟩ := h
  rwa [← (hs p').mp hat]

theorem State.InProtocol.after_emit (h : s.InProtocol) (hs : s.StandsAt p) {e : Event} (hnext : p.next e = some q) :
    Protocol.after .start (s.history ++ [e]) = some q := by
  rw [Protocol.after_append, h.after_eq hs]
  exact hnext

/-- A step without an event, to a micro-operation of the same place. -/
theorem State.InProtocol.silent (h : s.InProtocol) (hs : s.StandsAt p) (hh : t.history = s.history)
    (ht : t.StandsAt p) : t.InProtocol :=
  ⟨p, hh ▸ h.after_eq hs, ht.protocolAt⟩

/-- A step with an event in order, to a micro-operation of the place it leads to. -/
theorem State.InProtocol.emits (h : s.InProtocol) (hs : s.StandsAt p) {e : Event}
    (hh : t.history = s.history ++ [e]) (hnext : p.next e = some q) (ht : t.StandsAt q) : t.InProtocol :=
  ⟨q, hh ▸ h.after_emit hs hnext, ht.protocolAt⟩

/-- A request in order: it holds, or its answer `Ok` leads to the place of the micro-operation that follows, or its
answer `Err` ends the history. -/
theorem Requested.keeps_protocol {r : Request} {event : Answer → Event} {code : ErrCode} {onOk : State → State}
    (h : Requested r event code onOk u t) (hi : u.InProtocol) (hu : u.StandsAt p)
    (hok : p.next (event .ok) = some q) (herr : p.next (event .err) = some .dead)
    (hhist : ∀ v, (onOk v).history = v.history)
    (hgoes : ∀ v, v.state = u.state → v.channel = u.channel → (onOk v).StandsAt q) : t.InProtocol := by
  rcases h with ⟨-, rfl⟩ | ⟨-, rfl⟩ | ⟨-, rfl⟩
  · exact hi
  · exact hi.emits hu (hhist _) hok (hgoes _ rfl rfl)
  · exact ⟨.dead, hi.after_emit hu herr, (protocolAt_failed rfl).mpr (.inr rfl)⟩

theorem startDelay_history : (startDelay s).history = s.history := by
  unfold startDelay
  split <;> rfl

theorem standsAt_startDelay (hs : s.state = .running ∨ s.state = .blanking) : (startDelay s).StandsAt .owesDelay := by
  unfold startDelay
  split
  · exact standsAt_delay (c := StepCode.rowDelay) hs rfl rfl
  · exact standsAt_delay (c := StepCode.passDelay) hs rfl rfl

/-! ## What TX_PAYLOAD sends -/

/-- What is read from the scratch buffer is its first `3 * WIDTH` bytes. -/
theorem scratchImage_of_readRange {bs : List Byte} (h : readRange (scratchRead s) 0 s.rowBytes = .ok bs) :
    s.scratchImage = bs.map some := by
  obtain ⟨hl, hall⟩ := readRange_eq_ok.mp h
  refine List.ext_getElem (by simp [State.scratchImage, hl]) fun j _ hj => ?_
  rw [List.length_map] at hj
  obtain ⟨-, -, hread⟩ := scratchRead_eq_ok.mp (hall j hj)
  simpa [State.scratchImage] using hread

/-- R108, R109: the encoding of a whole number of triples, at least one. -/
theorem isPayload_encodeBuffer {bs : List Byte} (hpos : 0 < bs.length) (h3 : bs.length % 3 = 0) :
    isPayload (encodeBuffer bs) = true := by
  refine isPayload_iff.mpr ⟨?_, by rwa [length_encodeBuffer], fun b hb => ?_⟩
  · rwa [← List.length_pos_iff, length_encodeBuffer]
  · obtain ⟨v, -, rfl⟩ := List.mem_map.mp hb
    rw [pack_toNat]
    exact Nat.le_add_right _ _

/-- TX_PAYLOAD reads the encoding of a frame of at least one LED (R128 to R130). -/
theorem payload_of_scratchHolds (hi : s.Inv) (hh : s.ScratchHolds) (hc : s.stepCode = StepCode.txPayload)
    {bs : List Byte} (h : readRange (scratchRead s) 0 s.rowBytes = .ok bs) : isPayload bs = true := by
  obtain ⟨frame, hframe, himage⟩ := hh.2 (.inl hc)
  obtain rfl : bs = encodeBuffer frame :=
    List.map_injective_iff.mpr (Option.some_injective _) ((scratchImage_of_readRange h).symm.trans himage)
  have hlen : frame.length = 3 * s.width.toNat := (length_encodeBuffer frame).symm.trans (readRange_eq_ok.mp h).1
  have hwidth := (hi.r47.checked (hframe.imp And.left And.left)).1.width_pos
  exact isPayload_encodeBuffer (by omega) (by omega)

/-! ## Every agent keeps the protocol -/

/-- Every micro-operation, where what TX_PAYLOAD sends is a payload. -/
theorem micro_keeps_protocol (e : u.stepCode = c) (hi : u.InProtocol)
    (hpay : c = StepCode.txPayload → ∀ bs, readRange (scratchRead u) 0 u.rowBytes = .ok bs → isPayload bs = true)
    (h : exec (decodeStep c) u = .next t) : t.InProtocol := by
  rcases stepCode_cases c with
    rfl | rfl | rfl | rfl | rfl | rfl | rfl | rfl | rfl | rfl | rfl | rfl | rfl | rfl | rfl | rfl
  · obtain ⟨-, rfl⟩ := exec_waitStart_next h
    exact hi
  · obtain ⟨hs, ⟨_, -, rfl⟩ | ⟨-, rfl⟩⟩ := exec_check_next h
    · exact ⟨.start, hi.after_eq (standsAt_check hs e), (protocolAt_failed rfl).mpr (.inl rfl)⟩
    · exact hi.silent (standsAt_check hs e) rfl (standsAt_configure hs rfl)
  · obtain ⟨hs, hr⟩ := exec_configure_next h
    exact hr.keeps_protocol hi (standsAt_configure hs e) rfl rfl (fun _ => rfl)
      fun v hv _ => standsAt_initTransport (hv.trans hs) rfl
  · obtain ⟨hs, hr⟩ := exec_initTransport_next h
    exact hr.keeps_protocol hi (standsAt_initTransport hs e) rfl rfl (fun _ => rfl)
      fun v hv _ => standsAt_passTest (hv.trans hs) rfl
  · obtain ⟨hs, ⟨-, rfl⟩ | ⟨-, rfl⟩⟩ := exec_passTest_next h
    · exact hi.silent (standsAt_passTest hs e) rfl
        (standsAt_pass (c := StepCode.loadRow) (.inl rfl) rfl (by decide))
    · exact hi.silent (standsAt_passTest hs e) rfl (standsAt_terminated rfl)
  · obtain ⟨hs, _, -, -, -, rfl⟩ := exec_loadRow_next h
    exact hi.silent (standsAt_pass (.inl hs) e (by decide)) rfl
      (standsAt_pass (c := StepCode.encodeBuf) (.inl hs) rfl (by decide))
  · obtain ⟨hs, _, -, -, -, rfl⟩ := exec_encodeBuf_next h
    exact hi.silent (standsAt_pass hs e (by decide)) rfl
      (standsAt_pass (c := StepCode.txPayload) hs rfl (by decide))
  · obtain ⟨hs, bs, hbs, -, hr⟩ := exec_txPayload_next h
    have hnext := Protocol.ready_next_payload (hpay rfl bs hbs) u.channel
    exact hr.keeps_protocol hi (standsAt_pass hs e (by decide)) (hnext .ok) (hnext .err) (fun _ => rfl)
      fun v hv hch => hch ▸ standsAt_txLatch (s := v.goStep StepCode.txLatch) (hv ▸ hs) rfl
  · obtain ⟨hs, hr⟩ := exec_txLatch_next h
    have hnext := Protocol.owesLatch_next_latch u.channel
    exact hr.keeps_protocol hi (standsAt_txLatch hs e) (hnext .ok) (hnext .err) (fun _ => startDelay_history)
      fun v hv _ => standsAt_startDelay (hv ▸ hs)
  · obtain ⟨hs, ⟨-, rfl⟩ | ⟨-, rfl⟩⟩ := exec_rowDelay_next h
    · exact hi.emits (standsAt_delay (.inl hs) e rfl) rfl rfl
        (standsAt_pass (c := StepCode.rowNext) (.inl hs) rfl (by decide))
    · exact hi
  · obtain ⟨hs, ⟨-, rfl⟩ | ⟨-, rfl⟩⟩ := exec_rowNext_next h
    · exact hi.silent (standsAt_pass (.inl hs) e (by decide)) rfl
        (standsAt_pass (c := StepCode.loadRow) (.inl hs) rfl (by decide))
    · exact hi.silent (standsAt_pass (.inl hs) e (by decide)) rfl
        (standsAt_pass (c := StepCode.blankFill) (.inr rfl) rfl (by decide))
  · obtain ⟨hs, -, rfl⟩ := exec_blankFill_next h
    exact hi.silent (standsAt_pass (.inr hs) e (by decide)) rfl
      (standsAt_pass (c := StepCode.encodeBuf) (.inr hs) rfl (by decide))
  · obtain ⟨hs, ⟨-, rfl⟩ | ⟨-, rfl⟩⟩ := exec_passDelay_next h
    · exact hi.emits (standsAt_delay (.inr hs) e rfl) rfl rfl
        (standsAt_pass (c := StepCode.passEnd) (.inr hs) rfl (by decide))
    · exact hi
  · obtain ⟨hs, ⟨-, rfl⟩ | ⟨-, rfl⟩⟩ := exec_passEnd_next h
    · exact hi.silent (standsAt_pass (.inr hs) e (by decide)) rfl
        (standsAt_pass (c := StepCode.loadRow) (.inl rfl) rfl (by decide))
    · exact hi.silent (standsAt_pass (.inr hs) e (by decide)) rfl (standsAt_terminated rfl)
  · obtain ⟨-, rfl⟩ := exec_halt_next h
    exact hi
  · exact (exec_stepRsvd_next h).elim

/-- A host transaction emits nothing, and START goes to CHECK, where the protocol stands as in `IDLE`. -/
theorem HostEffect.keeps_protocol (h : HostEffect s t) (hi : s.InProtocol) : t.InProtocol := by
  cases h with
  | read | nothing => exact hi
  | ctrl data idle =>
    cases ctrlStart data with
    | false => cases ctrlFsReset data <;> exact hi
    | true =>
      cases ctrlFsReset data <;> exact hi.silent (standsAt_idle idle) rfl (standsAt_check rfl rfl)
  | channel _ idle => exact hi.silent (standsAt_idle idle) rfl (standsAt_idle idle)
  | repeats | width | height | clockHz | rowDelayMs | passDelayMs | fsData | overflow => exact hi

/-- Settles O51, by the agent whose turn it is: only micro-operations emit events, each the one that is in order where
the sequencer stands. -/
theorem stepKeepsTheTransmitProtocol : Obligations.StepKeepsTheTransmitProtocol := by
  refine ⟨⟨.start, rfl, rfl⟩, fun s t hi hh hp h => ?_⟩
  cases step_effect h with
  | micro u _ hu _ hexec =>
    obtain ⟨a, rfl⟩ : ∃ a, u = { s with hostRdata := none, agenda := s.agenda.tail, txAnswer := a } := ⟨_, hu⟩
    refine micro_keeps_protocol ?_ ?_ ?_ hexec
    · rfl
    · exact hp
    · exact fun hc _ hbs => payload_of_scratchHolds hi hh hc hbs
  | ignored => exact hp
  | accept => exact hp
  | host _ heffect => exact heffect.keeps_protocol hp
  | tick =>
    rw [(tick_frame _).1]
    exact hp
  | cycle =>
    rw [(clockCycle_frame _).1]
    exact hp
  | reset => exact ⟨.start, rfl, rfl⟩

end Sys2Proof.Machine
end

section
/-! PROOF. What the scratch buffer holds at ENCODE, TX_PAYLOAD and TX_LATCH (41_sequencer.md R128 to R130, R134). -/

namespace Sys2Proof.Machine

variable {s t u : State} {c : MicroCode}

/-! ## The image of the scratch buffer and of a row -/

/-- A store of a whole frame makes that frame the image of the scratch buffer. -/
theorem scratchImage_of_store {m : Memory} {bs : List Byte} (hm : t.scratch = m.writeBytes 0 bs)
    (hl : bs.length = t.rowBytes) : t.scratchImage = bs.map some := by
  refine List.ext_getElem (by simp [State.scratchImage, hl]) fun j _ hj => ?_
  rw [List.length_map] at hj
  simp [State.scratchImage, hm, read_writeBytes_zero, hj]

/-- What LOAD_ROW reads is the current row, before the gamma stage. -/
theorem rowImage_of_readRange {bs : List Byte} (h : readRange (fsRead s) s.rowBase s.rowBytes = .ok bs) :
    s.rowImage s.row.toNat = (bs.map (gammaStage s.gammaEn)).map some := by
  obtain ⟨hl, hall⟩ := readRange_eq_ok.mp h
  refine List.ext_getElem (by simp [State.rowImage, hl]) fun j _ hj => ?_
  have hbase : s.row.toNat * s.rowBytes = s.rowBase := (Nat.mul_assoc _ _ _).symm
  simp only [List.length_map] at hj
  obtain ⟨-, -, hread⟩ := fsRead_eq_ok.mp (hall j hj)
  simp [State.rowImage, hbase, hread]

/-- Where the scratch buffer holds a list of bytes, that list is what is read from it. -/
theorem eq_of_scratchImage {bs frame : List Byte} (h : readRange (scratchRead s) 0 s.rowBytes = .ok bs)
    (himage : s.scratchImage = frame.map some) : bs = frame :=
  List.map_injective_iff.mpr (Option.some_injective _) ((scratchImage_of_readRange h).symm.trans himage)

/-! ## Every agent keeps the frame -/

/-- The micro-operations at which the scratch buffer is promised to hold the frame or its encoding. -/
abbrev HoldsFrame (c : MicroCode) : Prop := c = StepCode.encodeBuf ∨ c = StepCode.txPayload ∨ c = StepCode.txLatch

theorem scratchHolds_elsewhere (h : ¬HoldsFrame t.stepCode) : t.ScratchHolds :=
  ⟨fun hc => absurd (.inl hc) h, fun hc => absurd (.inr hc) h⟩

theorem scratchHolds_at_encodeBuf {frame : List Byte} (hc : t.stepCode = StepCode.encodeBuf) (hf : t.FrameIs frame)
    (himage : t.scratchImage = frame.map some) : t.ScratchHolds := by
  refine ⟨fun _ => ⟨frame, hf, himage⟩, fun h => absurd h ?_⟩
  rw [hc]
  decide

theorem scratchHolds_after_encodeBuf {frame : List Byte} (hc : t.stepCode ≠ StepCode.encodeBuf) (hf : t.FrameIs frame)
    (himage : t.scratchImage = (encodeBuffer frame).map some) : t.ScratchHolds :=
  ⟨fun h => absurd h hc, fun _ => ⟨frame, hf, himage⟩⟩

/-- A request leaves the frame in place if what follows its `Ok` does; a fatal error asks for no frame. -/
theorem Requested.keeps_scratch {r : Request} {event : Answer → Event} {code : ErrCode} {onOk : State → State}
    (h : Requested r event code onOk u t) (hh : u.ScratchHolds)
    (hok : ∀ v : State, v.ScratchHolds → v.stepCode = u.stepCode → (onOk v).ScratchHolds) : t.ScratchHolds := by
  rcases h with ⟨-, rfl⟩ | ⟨-, rfl⟩ | ⟨-, rfl⟩
  · exact hh
  · exact hok _ hh rfl
  · exact scratchHolds_elsewhere (by decide : ¬HoldsFrame StepCode.halt)

theorem scratchHolds_startDelay (s : State) : (startDelay s).ScratchHolds := by
  unfold startDelay
  split
  · exact scratchHolds_elsewhere (by decide : ¬HoldsFrame StepCode.rowDelay)
  · exact scratchHolds_elsewhere (by decide : ¬HoldsFrame StepCode.passDelay)

theorem loadRow_fills_scratch (h : exec .loadRow u = .next t) : t.ScratchHolds := by
  obtain ⟨hs, bs, hbs, hl, -, rfl⟩ := exec_loadRow_next h
  exact scratchHolds_at_encodeBuf rfl (.inl ⟨hs, rowImage_of_readRange hbs⟩)
    (scratchImage_of_store rfl (by rw [List.length_map]; exact hl))

theorem blankFill_fills_scratch (h : exec .blankFill u = .next t) : t.ScratchHolds := by
  obtain ⟨hs, -, rfl⟩ := exec_blankFill_next h
  exact scratchHolds_at_encodeBuf rfl (.inr ⟨hs, rfl⟩) (scratchImage_of_store rfl List.length_replicate)

/-- ENCODE reads the frame that the scratch buffer holds, and stores its encoding there. -/
theorem encodeBuf_keeps_scratch (hh : u.ScratchHolds) (hc : u.stepCode = StepCode.encodeBuf)
    (h : exec .encodeBuf u = .next t) : t.ScratchHolds := by
  obtain ⟨-, bs, hbs, hl, -, rfl⟩ := exec_encodeBuf_next h
  obtain ⟨frame, hframe, himage⟩ := hh.1 hc
  obtain rfl := eq_of_scratchImage hbs himage
  exact scratchHolds_after_encodeBuf (by decide : StepCode.txPayload ≠ StepCode.encodeBuf) hframe
    (scratchImage_of_store rfl (by rw [length_encodeBuffer]; exact hl))

/-- TX_LATCH finds the encoding where TX_PAYLOAD found it. -/
theorem goStep_txLatch_keeps_scratch (hh : u.ScratchHolds) (hc : u.stepCode = StepCode.txPayload) :
    (u.goStep StepCode.txLatch).ScratchHolds := by
  obtain ⟨frame, hframe, himage⟩ := hh.2 (.inl hc)
  exact scratchHolds_after_encodeBuf (by decide : StepCode.txLatch ≠ StepCode.encodeBuf) hframe himage

/-- The micro-operations from which a step can end where a frame is due. -/
abbrev LeadsToFrame (c : MicroCode) : Prop := c = StepCode.loadRow ∨ c = StepCode.blankFill ∨ HoldsFrame c

theorem leadsToFrame_of_isEdge {p p' : Phase} {c c' : MicroCode} (h : isEdge p c p' c' = true) (hc : HoldsFrame c') :
    LeadsToFrame c := by
  have hmem := of_decide_eq_true h
  refine (?_ : ∀ e ∈ _, HoldsFrame e.2.2.2 → LeadsToFrame e.2.1) _ hmem hc
  decide

theorem StaysOrTakesEdge.leadsToFrame (h : StaysOrTakesEdge s t) (ht : HoldsFrame t.stepCode) :
    LeadsToFrame s.stepCode := by
  rcases h with ⟨-, hc⟩ | hedge
  · rw [hc] at ht
    exact .inr (.inr ht)
  · exact leadsToFrame_of_isEdge hedge ht

/-- By the transition table five micro-operations can end where a frame is due; each puts it there or leaves it. -/
theorem micro_keeps_scratch (e : u.stepCode = c) (hh : u.ScratchHolds) (h : exec (decodeStep c) u = .next t) :
    t.ScratchHolds := by
  by_cases ht : HoldsFrame t.stepCode
  · have hfrom : LeadsToFrame c := e ▸ (micro_staysOrTakesEdge e h).leadsToFrame ht
    rcases hfrom with rfl | rfl | rfl | rfl | rfl
    · exact loadRow_fills_scratch h
    · exact blankFill_fills_scratch h
    · exact encodeBuf_keeps_scratch hh e h
    · obtain ⟨-, _, -, -, hr⟩ := exec_txPayload_next h
      exact hr.keeps_scratch hh fun _ hv hvc => goStep_txLatch_keeps_scratch hv (hvc.trans e)
    · exact (exec_txLatch_next h).2.keeps_scratch hh fun v _ _ => scratchHolds_startDelay v
  · exact scratchHolds_elsewhere ht

/-- A host transaction changes the image or the geometry in `IDLE` only, from where no step leads to a frame. -/
theorem HostEffect.keeps_scratch (h : HostEffect s t) (hl : s.state ∈ legalPhases s.stepCode) (hh : s.ScratchHolds) :
    t.ScratchHolds := by
  by_cases hs : s.state = .idle
  · have hwait : s.stepCode = StepCode.waitStart := stepCode_of_idle_legal _ (hs ▸ hl)
    refine scratchHolds_elsewhere fun ht => ?_
    have hfrom := (h.staysOrTakesEdge hl).leadsToFrame ht
    rw [hwait] at hfrom
    exact absurd hfrom (by decide)
  · obtain ⟨r, rfl⟩ := h.eq_of_locked hs
    exact hh

/-- Settles O50, by the agent whose turn it is: LOAD_ROW and BLANK_FILL put the frame there, ENCODE its encoding, and no
other step that ends at ENCODE, TX_PAYLOAD or TX_LATCH touches the scratch buffer or the frame. -/
theorem stepKeepsTheFrameInScratch : Obligations.StepKeepsTheFrameInScratch := by
  refine ⟨scratchHolds_elsewhere (by decide), fun s t hi hh h => ?_⟩
  cases step_effect h with
  | micro u _ hu _ hexec =>
    obtain ⟨a, rfl⟩ : ∃ a, u = { s with hostRdata := none, agenda := s.agenda.tail, txAnswer := a } := ⟨_, hu⟩
    refine micro_keeps_scratch ?_ ?_ hexec
    · rfl
    · exact hh
  | ignored => exact hh
  | accept => exact hh
  | host _ heffect => exact heffect.keeps_scratch hi.stepSound.pair_legal hh
  | tick =>
    rw [(tick_frame _).1]
    exact hh
  | cycle =>
    rw [(clockCycle_frame _).1]
    exact hh
  | reset => exact scratchHolds_elsewhere (by decide : ¬HoldsFrame StepCode.waitStart)

end Sys2Proof.Machine
end

section
/-! PROOF. What the next turn runs (41_sequencer.md R121, 42_host_interface.md R160), the transition table (R120), and
the reserved code (R138). -/

namespace Sys2Proof.Machine

variable {s : State}

/-- An answer that finds the sequencer at no transport step is ignored (R232). -/
theorem step_transport_ignored {a : Answer} (h : s.nextTurn = .transport a) (ht : isTransportStep s.stepCode = false) :
    step s = .next { s with hostRdata := none, agenda := s.agenda.tail } := by
  unfold step
  rw [h]
  simp only [runTurn, transportTurn]
  rw [if_neg (by simp [ht])]
  rfl

theorem mem_transportCodes_iff {c : MicroCode} : c ∈ [0x2#4, 0x3#4, 0x7#4, 0x8#4] ↔ isTransportStep c = true := by
  revert c; decide

/-- Settles O5, by the turn that comes next. -/
theorem stepRunsTheDecodedInstruction : Obligations.StepRunsTheDecodedInstruction := fun _ =>
  ⟨step_sequencer,
    fun _ h => ⟨fun hc => step_transport h (mem_transportCodes_iff.mp hc),
      fun hc => step_transport_ignored h (by simpa using mt mem_transportCodes_iff.mpr hc)⟩,
    fun _ => step_abandoned, step_txDataReady, fun _ => step_host, step_tick, step_cycle, step_reset⟩

/-- Settles O45: the edges of `isEdge` are those of the table. -/
theorem onlyTableEdgesAreTaken : Obligations.OnlyTableEdgesAreTaken := fun _ _ hl h =>
  or_assoc.mp (step_staysOrTakesEdge hl h)

/-- Settles O37: a step keeps the pair legal, and no state is legal with the reserved code. -/
theorem reservedStepFaults : Obligations.ReservedStepFaults := by
  refine ⟨fun _ => rfl, fun s hc hn => ?_, fun s t hl h hc => ?_⟩
  · rw [step_sequencer hn, hc]
    rfl
  · have hlegal : t.state ∈ legalPhases t.stepCode := by
      rcases step_staysOrTakesEdge hl h with hedge | ⟨-, hs, hw⟩
      · exact hedge.legal hl
      · rw [hs, hw]
        decide
    rw [hc] at hlegal
    cases hlegal

end Sys2Proof.Machine
end

section
/-! PROOF. What each micro-operation before the first pass answers (41_sequencer.md R122 to R126). -/

namespace Sys2Proof.Machine

variable {s : State}

/-! ## CHECK (R123) -/

theorem startCheck_geometry (h : s.width.toNat = 0 ∨ s.height.toNat = 0) : startCheck s = some .geometry := if_pos h

theorem startCheck_capacity (hw : s.width.toNat ≠ 0) (hh : s.height.toNat ≠ 0)
    (h : s.cfg.maxLeds < s.width.toNat ∨ s.cfg.fsBytes < s.imageBytes) : startCheck s = some .capacity := by
  rw [startCheck, if_neg (not_or.mpr ⟨hw, hh⟩), if_pos h]

theorem startCheck_truncated (hw : s.width.toNat ≠ 0) (hh : s.height.toNat ≠ 0) (hleds : s.width.toNat ≤ s.cfg.maxLeds)
    (hfit : s.imageBytes ≤ s.cfg.fsBytes) (h : s.fsPtr.toNat < s.imageBytes) : startCheck s = some .truncated := by
  rw [startCheck, if_neg (not_or.mpr ⟨hw, hh⟩), if_neg (not_or.mpr ⟨hleds.not_gt, hfit.not_gt⟩), if_pos h]

theorem exec_check_fails {code : ErrCode} (hs : s.state = .configuring) (h : startCheck s = some code) :
    exec .check s = .next (raiseFatal code s) := by
  rw [exec_check_eq hs, h]

theorem exec_check_passes (hs : s.state = .configuring) (h : startCheck s = none) :
    exec .check s = .next (s.goStep StepCode.configure) := by
  rw [exec_check_eq hs, h]

/-- Settles O23, by the outcome of the start checks. -/
theorem checkOutcome : Obligations.CheckOutcome := fun _ hs =>
  ⟨fun h => exec_check_fails hs (startCheck_geometry h),
    fun hw hh h => exec_check_fails hs (startCheck_capacity hw hh h),
    fun hw hh hleds hfit h => exec_check_fails hs (startCheck_truncated hw hh hleds hfit h),
    fun hw hh hleds hfit h => exec_check_passes hs (startCheck_eq_none.mpr
      ⟨⟨Nat.one_le_iff_ne_zero.mpr hw, hleds, Nat.one_le_iff_ne_zero.mpr hh, h⟩, hfit⟩)⟩

/-! ## CONFIGURE and INITIALIZE (R124, R125) -/

theorem exec_configure_eq (hs : s.state = .configuring) :
    exec .configure s = transact (.cfg s.channel s.clockHz) (.configure s.channel s.clockHz) .configure
      (fun u => u.goStep StepCode.initTransport) s :=
  onLegalPair_of_mem _ (by simp [hs])

theorem exec_initTransport_eq (hs : s.state = .configuring) :
    exec .initTransport s = transact .init .initTransport .initTransport (fun u => u.goStep StepCode.passTest) s :=
  onLegalPair_of_mem _ (by simp [hs])

/-- Settles O24: an answered request is recorded, and goes on or is fatal. -/
theorem configureAndInitializeAnswers : Obligations.ConfigureAndInitializeAnswers := fun _ hs =>
  ⟨fun ha => ⟨(exec_configure_eq hs).trans (transact_ok ha), (exec_initTransport_eq hs).trans (transact_ok ha)⟩,
    fun ha => ⟨(exec_configure_eq hs).trans (transact_err ha), (exec_initTransport_eq hs).trans (transact_err ha)⟩⟩

/-! ## PASS_TEST (R126) -/

theorem exec_passTest_eq (hs : s.state = .configuring) : exec .passTest s =
    if repeatsPositive s.repeats then .next ({ s with row := 0#16 }.goto .running StepCode.loadRow)
    else .next (s.goto .terminated StepCode.halt) :=
  onLegalPair_of_mem _ (by simp [hs])

/-- Settles O25: the test is on the sign of `REPEATS`. -/
theorem passTestOutcome : Obligations.PassTestOutcome := fun _ hs =>
  ⟨fun h => (exec_passTest_eq hs).trans (if_pos (repeatsPositive_iff.mpr h)),
    fun h => (exec_passTest_eq hs).trans (if_neg (mt repeatsPositive_iff.mp h.not_gt))⟩

end Sys2Proof.Machine
end

section
/-! PROOF. What each micro-operation of a row and of the blank frame answers (41_sequencer.md R128 to R137). -/

namespace Sys2Proof.Machine

variable {s t : State}

/-! ## TX_PAYLOAD and TX_LATCH (R130, R131) -/

/-- Settles O29: the scratch frame is read, and its request is answered. -/
theorem txPayloadAnswers : Obligations.TxPayloadAnswers := by
  intro s p hw hl hp
  have hread := scratchRange_eq hw hl hp
  refine ⟨fun hs ha => (exec_txPayload_eq hs hread).trans (transact_ok ha), fun hs ha => ?_, fun hs ha => ?_⟩
  · rw [exec_txPayload_eq (.inl hs) hread, transact_err ha, hs]
    rfl
  · rw [exec_txPayload_eq (.inr hs) hread, transact_err ha, hs]
    rfl

theorem startDelay_running (hs : s.state = .running) :
    startDelay s = { s with dlyCnt := s.rowDelayMs, presc := 0, stepCode := StepCode.rowDelay } := if_pos hs

theorem startDelay_blanking (hs : s.state = .blanking) :
    startDelay s = { s with dlyCnt := s.passDelayMs, presc := 0, stepCode := StepCode.passDelay } :=
  if_neg (by simp [hs])

/-- Settles O30: the latch is answered, and `Ok` starts the delay of the state. -/
theorem txLatchAnswers : Obligations.TxLatchAnswers := by
  refine fun s => ⟨fun hs ha => ?_, fun hs ha => ?_, fun hs ha => ?_, fun hs ha => ?_⟩
  · exact ((exec_txLatch_eq (.inl hs)).trans (transact_ok ha)).trans
      (congrArg Host.Outcome.next (startDelay_running hs))
  · exact ((exec_txLatch_eq (.inr hs)).trans (transact_ok ha)).trans
      (congrArg Host.Outcome.next (startDelay_blanking hs))
  · rw [exec_txLatch_eq (.inl hs), transact_err ha, hs]
    rfl
  · rw [exec_txLatch_eq (.inr hs), transact_err ha, hs]
    rfl

/-! ## A request that waits for its answer (R121) -/

/-- An unanswered request holds: it is presented, or left as it is if it is pending already (R46, R48). -/
theorem holds_of_eq_transact {i : Instr} {r : Request} {event : Answer → Event} {code : ErrCode}
    {onOk : State → State} (ha : s.txAnswer = none) (h : exec i s = transact r event code onOk s) :
    ∃ t, exec i s = .next t ∧ (∀ n, s.txPending = some ⟨r, n⟩ → t = s)
      ∧ ((∀ n, s.txPending ≠ some ⟨r, n⟩) → t = { s with txPending := some ⟨r, 0⟩ }) :=
  ⟨issue r s, h.trans (transact_none ha), fun _ => issue_of_pending, issue_of_not_pending⟩

/-- Settles O31: each of the four is a request of its own. -/
theorem transportMicroOpsHoldUntilAnswered : Obligations.TransportMicroOpsHoldUntilAnswered := fun _ ha =>
  ⟨fun hs => ⟨holds_of_eq_transact ha (exec_configure_eq hs), holds_of_eq_transact ha (exec_initTransport_eq hs)⟩,
    fun hs => ⟨holds_of_eq_transact ha (exec_txLatch_eq hs),
      fun _ hw hl hp => holds_of_eq_transact ha (exec_txPayload_eq hs (scratchRange_eq hw hl hp))⟩⟩

/-! ## ROW_DELAY and PASS_DELAY (R132, R135) -/

theorem exec_rowDelay_eq (hs : s.state = .running) : exec .rowDelay s =
    if s.dlyCnt = 0#16 then .next ((emit (.delayDone s.rowDelayMs) s).goStep StepCode.rowNext) else .next s :=
  onLegalPair_of_mem _ (by simp [hs])

theorem exec_passDelay_eq (hs : s.state = .blanking) : exec .passDelay s =
    if s.dlyCnt = 0#16 then .next ((emit (.delayDone s.passDelayMs) s).goStep StepCode.passEnd) else .next s :=
  onLegalPair_of_mem _ (by simp [hs])

/-- Settles O32: the test is on `DLY_CNT` alone. -/
theorem delayMicroOpsWaitForZero : Obligations.DelayMicroOpsWaitForZero := fun _ =>
  ⟨fun hs hd => (exec_rowDelay_eq hs).trans (if_pos (dly_eq_zero.mpr hd)),
    fun hs hd => (exec_rowDelay_eq hs).trans (if_neg (mt dly_eq_zero.mp hd.ne')),
    fun hs hd => (exec_passDelay_eq hs).trans (if_pos (dly_eq_zero.mpr hd)),
    fun hs hd => (exec_passDelay_eq hs).trans (if_neg (mt dly_eq_zero.mp hd.ne'))⟩

/-! ## ROW_NEXT and PASS_END (R133, R136) -/

theorem exec_rowNext_eq (hs : s.state = .running) : exec .rowNext s =
    if s.row.toNat + 1 < s.height.toNat then .next ({ s with row := s.row + 1#16 }.goStep StepCode.loadRow)
    else .next ({ s with row := s.row + 1#16 }.goto .blanking StepCode.blankFill) :=
  onLegalPair_of_mem _ (by simp [hs])

/-- The row after the last is `HEIGHT`. -/
theorem row_succ_eq_height {r h : Half} (hr : r.toNat < h.toNat) (hlast : ¬r.toNat + 1 < h.toNat) : r + 1#16 = h :=
  BitVec.eq_of_toNat_eq (by rw [row_succ_toNat hr]; omega)

/-- Settles O33: below `HEIGHT` the addition does not wrap. -/
theorem rowNextAdvances : Obligations.RowNextAdvances := fun s hs hr =>
  ⟨s.row + 1#16, row_succ_toNat hr, fun h => (exec_rowNext_eq hs).trans (if_pos h),
    fun h => ⟨row_succ_eq_height hr h, (exec_rowNext_eq hs).trans (if_neg h)⟩⟩

theorem exec_passEnd_eq (hs : s.state = .blanking) : exec .passEnd s =
    if repeatsPositive (s.repeats - 1#32) then
      .next ({ s with repeats := s.repeats - 1#32, row := 0#16 }.goto .running StepCode.loadRow)
    else .next ({ s with repeats := s.repeats - 1#32, row := 0#16 }.goto .terminated StepCode.halt) :=
  onLegalPair_of_mem _ (by simp [hs])

theorem exec_passEnd_more (hs : s.state = .blanking) (h : 1 < s.repeats.toInt) : exec .passEnd s = .next { s with
    repeats := s.repeats - 1#32, row := 0#16, state := .running, stepCode := StepCode.loadRow } := by
  have hpos : 0 < (s.repeats - 1#32).toInt := by rw [repeats_pred_toInt h.le]; omega
  exact (exec_passEnd_eq hs).trans (if_pos (repeatsPositive_iff.mpr hpos))

theorem exec_passEnd_last (hs : s.state = .blanking) (h : s.repeats.toInt = 1) : exec .passEnd s = .next { s with
    repeats := s.repeats - 1#32, row := 0#16, state := .terminated, stepCode := StepCode.halt } := by
  have hzero : ¬0 < (s.repeats - 1#32).toInt := by rw [repeats_pred_toInt h.ge]; omega
  exact (exec_passEnd_eq hs).trans (if_neg (mt repeatsPositive_iff.mp hzero))

/-- Settles O35: at 1 or above the subtraction does not wrap. -/
theorem passEndCountsDown : Obligations.PassEndCountsDown := fun s hs hrep =>
  ⟨s.repeats - 1#32, repeats_pred_toInt hrep, exec_passEnd_more hs, exec_passEnd_last hs⟩

/-! ## WAIT_START and HALT (R122, R137) -/

theorem exec_waitStart_eq (hs : s.state = .idle) : exec .waitStart s = .next s := onLegalPair_of_mem _ (by simp [hs])

theorem exec_halt_eq (hs : s.state = .terminated ∨ s.state = .failed) (he : s.err.isReserved = false) :
    exec .halt s = .next s :=
  (onLegalPair_of_mem _ (by simpa using hs)).trans (if_neg (by simp [he]))

theorem isReserved_eq_false {e : ErrCode} (h : ∀ k, e ≠ .reserved k) : e.isReserved = false := by
  cases e with
  | reserved k => exact absurd rfl (h k)
  | _ => rfl

/-- Settles O36: neither is ever enabled. -/
theorem waitStartAndHaltHold : Obligations.WaitStartAndHaltHold := fun _ =>
  ⟨exec_waitStart_eq, fun hs he => exec_halt_eq hs (isReserved_eq_false he)⟩

end Sys2Proof.Machine
end

section
/-! PROOF. The micro-operations that fill or transform the scratch buffer, and that no state of the invariant stops
(41_sequencer.md R128, R129, R134). -/

namespace Sys2Proof.Machine

variable {s t : State}

theorem rowBytes_le (hw : s.width.toNat ≤ s.cfg.maxLeds) : s.rowBytes ≤ 3 * s.cfg.maxLeds := Nat.mul_le_mul_left 3 hw

/-- Above what a store covers, the memory reads as before. -/
theorem read_writeBytes_above {bs : List Byte} {a : Nat} (m : Memory) (h : bs.length ≤ a) :
    (m.writeBytes 0 bs).read a = m.read a := by
  rw [read_writeBytes_zero, if_neg h.not_gt]

theorem read_writeBytes_below {bs : List Byte} {a : Nat} (m : Memory) (h : a < bs.length) :
    (m.writeBytes 0 bs).read a = bs[a]? := by
  rw [read_writeBytes_zero, if_pos h]

/-! ## BLANK_FILL (R134) -/

/-- Settles O34: a store of `3 * WIDTH` zeros. -/
theorem blankFillZeroes : Obligations.BlankFillZeroes := by
  intro s hs hw
  have hl : (List.replicate s.rowBytes 0x00#8).length = 3 * s.width.toNat := List.length_replicate
  refine ⟨_, exec_blankFill_eq hs (rowBytes_le hw), fun j hj => ?_, fun a ha => ?_, rfl⟩
  · rw [read_writeBytes_below _ (by omega)]
    exact List.getElem?_replicate_of_lt hj
  · exact read_writeBytes_above _ (by omega)

/-! ## LOAD_ROW (R128) -/

/-- A row below `HEIGHT` lies within the image. -/
theorem row_within_image {r w h : Nat} (hr : r < h) : r * 3 * w + 3 * w ≤ 3 * w * h :=
  calc r * 3 * w + 3 * w = 3 * w * (r + 1) := by ring
    _ ≤ 3 * w * h := Nat.mul_le_mul_left _ hr

/-- Settles O27: the row is read byte by byte and stored through the gamma stage; in a state that the rules reach it
lies within the image, all of which has been written. -/
theorem loadRowCopiesTheRow : Obligations.LoadRowCopiesTheRow := by
  refine ⟨fun s hs hw hptr hfs hwritten => ?_, fun s hi hs => ?_⟩
  · obtain ⟨bs, hbs⟩ := fsRange_ok hptr hfs hwritten
    have hl : bs.length = 3 * s.width.toNat := (readRange_eq_ok.mp hbs).1
    refine ⟨_, exec_loadRow_eq hs hbs (rowBytes_le hw), fun j hj => ?_, fun a ha => ?_, rfl⟩
    · obtain ⟨b, hb, hbj⟩ := range_getElem hbs hj
      obtain ⟨-, -, hread⟩ := fsRead_eq_ok.mp hb
      have hread : s.fs.read (s.row.toNat * 3 * s.width.toNat + j) = some b := hread
      rw [read_writeBytes_below _ (by rw [List.length_map]; omega), List.getElem?_map, hbj, hread]
      rfl
    · exact read_writeBytes_above _ (by rw [List.length_map]; omega)
  · obtain ⟨hg, -⟩ := hi.r47.checked (.inl hs)
    have himage := row_within_image (w := s.width.toNat) (hi.r47.row_running hs)
    have hloaded : 3 * s.width.toNat * s.height.toNat ≤ s.fsPtr.toNat := hg.image_loaded
    exact ⟨hg.width_le, himage, hloaded, hi.r47.fsPtr_le, fun j hj => hi.wired.fs_written _ (by omega)⟩

/-! ## ENCODE (R129) -/

/-- In every state of the invariant at ENCODE, or at TX_PAYLOAD, the frame can be read from the scratch buffer. -/
theorem State.Inv.frame_readable (hi : s.Inv) (hc : ReadsScratch s.stepCode) :
    s.width.toNat ≤ s.cfg.maxLeds ∧ ∀ j, j < s.rowBytes → (s.scratch.read j).isSome := by
  have hs : s.state = .running ∨ s.state = .blanking := by
    have hl := hi.r47.pair_legal
    rcases hc with hc | hc <;> rw [hc] at hl <;> simpa using hl
  exact ⟨(hi.r47.checked hs).1.width_le, hi.wired.scratch_written hc⟩

theorem reorderTriples_replicate (b : Byte) : ∀ n, reorderTriples (List.replicate n b) = List.replicate n b
  | 0 | 1 | 2 => rfl
  | n + 3 => congrArg (b :: b :: b :: ·) (reorderTriples_replicate b n)

theorem encodeBuffer_replicate (n : Nat) (b : Byte) :
    encodeBuffer (List.replicate n b) = List.replicate n (pack b) := by
  rw [encodeBuffer, reorderTriples_replicate, List.map_replicate]

/-- The encoding of the blank frame (R129): `3 * WIDTH` bytes `0x80`. -/
theorem encodeBuffer_blank (n : Nat) : encodeBuffer (List.replicate n 0x00#8) = List.replicate n 0x80#8 :=
  encodeBuffer_replicate n 0x00#8

/-- ENCODE of a buffer of zeros gives one of `0x80`. -/
theorem encodeBuf_blanks (hz : ∀ j, j < s.rowBytes → s.scratch.read j = some 0x00#8)
    (h : exec .encodeBuf s = .next t) {j : Nat} (hj : j < s.rowBytes) : t.scratch.read j = some 0x80#8 := by
  obtain ⟨-, bs, hbs, hl, -, rfl⟩ := exec_encodeBuf_next h
  have himage : s.scratchImage = (List.replicate s.rowBytes 0x00#8).map some := by
    refine List.ext_getElem (by simp [State.scratchImage]) fun i hi _ => ?_
    rw [State.scratchImage, List.length_map, List.length_range] at hi
    simp [State.scratchImage, hz i hi]
  obtain rfl := eq_of_scratchImage hbs himage
  rw [encodeBuffer_blank, read_writeBytes_below _ (by rwa [List.length_replicate])]
  exact List.getElem?_replicate_of_lt hj

/-- In `BLANKING` at ENCODE the scratch buffer holds zeros. -/
theorem zeros_of_scratchHolds (hh : s.ScratchHolds) (hs : s.state = .blanking) (hc : s.stepCode = StepCode.encodeBuf)
    {j : Nat} (hj : j < s.rowBytes) : s.scratch.read j = some 0x00#8 := by
  obtain ⟨frame, ⟨hrun, -⟩ | ⟨-, rfl⟩, himage⟩ := hh.1 hc
  · cases hs.symm.trans hrun
  · have hbyte := congrArg (·[j]?) himage
    simpa [State.scratchImage, hj] using hbyte

/-- Settles O28: ENCODE reads the frame and stores its encoding, triple by triple; of zeros the encoding is `0x80`. -/
theorem encodeTransformsTheScratchBuffer : Obligations.EncodeTransformsTheScratchBuffer := by
  refine ⟨fun s hs hw hwritten => ?_, fun s hi hc => hi.frame_readable (.inl hc),
    fun s t hz h j hj => encodeBuf_blanks hz h hj, fun s hi hh hs hc => ?_⟩
  · obtain ⟨bs, hbs⟩ := scratchRange_ok hw hwritten
    have hl : bs.length = 3 * s.width.toNat := (readRange_eq_ok.mp hbs).1
    have hle := length_encodeBuffer bs
    obtain ⟨-, htriple⟩ := encodeBufferByTriples bs (by omega)
    have hread {j : Nat} (hj : j < 3 * s.width.toNat) : bs[j]? = s.scratch.read j := by
      obtain ⟨b, hb, hbj⟩ := range_getElem hbs hj
      obtain ⟨-, -, hsome⟩ := scratchRead_eq_ok.mp hb
      rw [hbj, ← hsome, Nat.zero_add]
    refine ⟨_, exec_encodeBuf_eq hs hbs (rowBytes_le hw), fun k hk => ?_, fun a ha => ?_, rfl⟩
    · obtain ⟨h0, h1, h2⟩ := htriple k (by omega)
      rw [read_writeBytes_below _ (by omega), read_writeBytes_below _ (by omega), read_writeBytes_below _ (by omega),
        h0, h1, h2, hread (by omega), hread (by omega), hread (by omega)]
      exact ⟨rfl, rfl, rfl⟩
    · exact read_writeBytes_above _ (by omega)
  · obtain ⟨hw, hwritten⟩ := hi.frame_readable (.inl hc)
    obtain ⟨bs, hbs⟩ := scratchRange_ok hw hwritten
    have hexec := exec_encodeBuf_eq (.inr hs) hbs (rowBytes_le hw)
    exact ⟨_, hexec, fun j hj => encodeBuf_blanks (fun i hi => zeros_of_scratchHolds hh hs hc hi) hexec hj⟩

/-! ## No state of the invariant stops -/

theorem onLegalPair_total {c : MicroCode} {k : Outcome} (hl : s.state ∈ legalPhases c) (hk : ∃ t, k = .next t) :
    ∃ t, onLegalPair c s k = .next t := by
  rwa [onLegalPair_of_mem k hl]

/-- Every micro-operation answers a next state, with any answer of the transport presented or none. -/
theorem micro_total (hi : s.Inv) {c : MicroCode} (hc : s.stepCode = c) (a : Option Answer) :
    ∃ t, exec (decodeStep c) { s with txAnswer := a } = .next t := by
  have hl : s.state ∈ legalPhases c := hc ▸ hi.r47.pair_legal
  rcases stepCode_cases c with
    rfl | rfl | rfl | rfl | rfl | rfl | rfl | rfl | rfl | rfl | rfl | rfl | rfl | rfl | rfl | rfl
  · exact onLegalPair_total hl ⟨_, rfl⟩
  · exact onLegalPair_total hl (by split <;> exact ⟨_, rfl⟩)
  · exact onLegalPair_total hl (transact_total _)
  · exact onLegalPair_total hl (transact_total _)
  · exact onLegalPair_total hl (by split <;> exact ⟨_, rfl⟩)
  · have hs : s.state = .running := by simpa using hl
    obtain ⟨hw, hrow, himage, hptr, hwritten⟩ := loadRowCopiesTheRow.2 s hi hs
    obtain ⟨bs, hbs⟩ := fsRange_ok (hrow.trans himage) hptr hwritten
    exact ⟨_, exec_loadRow_eq (s := { s with txAnswer := a }) hs hbs (rowBytes_le hw)⟩
  · obtain ⟨hw, hwritten⟩ := hi.frame_readable (.inl hc)
    obtain ⟨bs, hbs⟩ := scratchRange_ok hw hwritten
    exact ⟨_, exec_encodeBuf_eq (s := { s with txAnswer := a }) (by simpa using hl) hbs (rowBytes_le hw)⟩
  · obtain ⟨hw, hwritten⟩ := hi.frame_readable (.inr hc)
    obtain ⟨bs, hbs⟩ := scratchRange_ok hw hwritten
    obtain ⟨t, ht⟩ := transact_total { s with txAnswer := a }
    exact ⟨t, (exec_txPayload_eq (s := { s with txAnswer := a }) (by simpa using hl) hbs).trans ht⟩
  · exact onLegalPair_total hl (transact_total _)
  · exact onLegalPair_total hl (by split <;> exact ⟨_, rfl⟩)
  · exact onLegalPair_total hl (by split <;> exact ⟨_, rfl⟩)
  · have hs : s.state = .blanking := by simpa using hl
    obtain ⟨hg, -⟩ := hi.r47.checked (.inr hs)
    exact ⟨_, exec_blankFill_eq (s := { s with txAnswer := a }) hs (rowBytes_le hg.width_le)⟩
  · exact onLegalPair_total hl (by split <;> exact ⟨_, rfl⟩)
  · exact onLegalPair_total hl (by split <;> exact ⟨_, rfl⟩)
  · exact onLegalPair_total hl ⟨_, if_neg (by simp [hi.wired.err_known])⟩
  · cases hl

/-- Settles O49: a micro-operation finds a legal pair and all that it reads, and the other turns run in every state. -/
theorem invariantStatesNeverStop : Obligations.InvariantStatesNeverStop := by
  intro s hi
  have hc := hi.stepSound
  have taken : State.Inv { s with hostRdata := none, agenda := s.agenda.tail } :=
    hi.interface hc.no_delay hc.presc_lt hc.pending_current hc.no_answer
  cases hn : s.nextTurn with
  | sequencer =>
    rw [step_sequencer hn]
    exact micro_total taken rfl s.txAnswer
  | transport a =>
    cases ht : isTransportStep s.stepCode with
    | true =>
      rw [step_transport hn ht]
      exact micro_total taken rfl (some a)
    | false => exact ⟨_, step_transport_ignored hn ht⟩
  | abandoned => exact ⟨_, step_abandoned hn⟩
  | txDataReady => exact ⟨_, step_txDataReady hn⟩
  | host w =>
    obtain ⟨t, ht, -⟩ := exec_host (decodeHost_isHostInstr w) { s with hostRdata := none, agenda := s.agenda.tail }
    exact ⟨t, (step_host hn).trans ht⟩
  | tick => exact ⟨_, step_tick hn⟩
  | cycle => exact ⟨_, step_cycle hn⟩
  | reset => exact ⟨_, step_reset hn⟩

end Sys2Proof.Machine
end

section
/-! PROOF. The run before the first pass: CHECK, CONFIGURE, INITIALIZE and PASS_TEST (41_sequencer.md R127). -/

namespace Sys2Proof.Machine

variable {s t u : State} {c : MicroCode} {l : List Turn}

/-! ## Runs, and steps by the micro-operation at hand -/

/-- A run from a state of the invariant ends in one. -/
theorem run_keeps_inv {k : Nat} (hi : s.Inv) (h : Host.Core.run core k s = .next t) : t.Inv := by
  induction k generalizing s with
  | zero =>
    cases h
    exact hi
  | succ k ih =>
    obtain ⟨u, hu⟩ := invariantStatesNeverStop s hi
    rw [run_succ hu] at h
    exact ih (stepKeepsTheInvariant s u hi hu) h

theorem run_one (h : step s = .next t) : Host.Core.run core 1 s = .next t := run_succ h

theorem run_cons {k : Nat} (h : step s = .next t) (hr : Host.Core.run core k t = .next u) :
    Host.Core.run core (k + 1) s = .next u :=
  (run_succ h).trans hr

theorem step_at (hc : s.stepCode = c) (hl : s.agenda = .sequencer :: l) :
    step s = exec (decodeStep c) { s with hostRdata := none, agenda := l } := by
  rw [step_sequencer_of hl, hc]

theorem step_answered_at {a : Answer} (hc : s.stepCode = c) (ht : isTransportStep c = true)
    (hl : s.agenda = .transport a :: l) :
    step s = exec (decodeStep c) { s with hostRdata := none, agenda := l, txAnswer := some a } := by
  rw [step_transport_of hl (hc ▸ ht), hc]

/-! ## From CHECK to PASS_TEST -/

theorem step_check_passes (hs : s.state = .configuring) (hc : s.stepCode = StepCode.check)
    (h : startCheck s = none) (hl : s.agenda = .sequencer :: l) :
    step s = .next { s with hostRdata := none, agenda := l, stepCode := StepCode.configure } :=
  (step_at hc hl).trans (exec_check_passes hs h)

theorem step_configure_ok (hs : s.state = .configuring) (hc : s.stepCode = StepCode.configure)
    (hl : s.agenda = .transport .ok :: l) :
    step s = .next { s with
      hostRdata := none, agenda := l, history := s.history ++ [.configure s.channel s.clockHz .ok], txPending := none,
      txAnswer := none, stepCode := StepCode.initTransport } :=
  ((step_answered_at hc rfl hl).trans (exec_configure_eq hs)).trans (transact_ok rfl)

theorem step_initTransport_ok (hs : s.state = .configuring) (hc : s.stepCode = StepCode.initTransport)
    (hl : s.agenda = .transport .ok :: l) :
    step s = .next { s with
      hostRdata := none, agenda := l, history := s.history ++ [.initTransport .ok], txPending := none,
      txAnswer := none, stepCode := StepCode.passTest } :=
  ((step_answered_at hc rfl hl).trans (exec_initTransport_eq hs)).trans (transact_ok rfl)

/-- The state at PASS_TEST after a start with good geometry and the answers `Ok`. -/
abbrev State.started (s : State) (l : List Turn) : State :=
  { s with
    hostRdata := none, agenda := l,
    history := s.history ++ [.configure s.channel s.clockHz .ok] ++ [.initTransport .ok], txPending := none,
    txAnswer := none, stepCode := StepCode.passTest }

theorem run_started (hi : s.Inv) (hs : s.state = .configuring) (hc : s.stepCode = StepCode.check)
    (hg : s.GeometryChecked) (hl : s.agenda = .sequencer :: .transport .ok :: .transport .ok :: l) :
    Host.Core.run core 3 s = .next (s.started l) := by
  have hcheck : startCheck s = none := startCheck_eq_none.mpr ⟨hg, hg.image_loaded.trans hi.r47.fsPtr_le⟩
  exact run_cons (step_check_passes hs hc hcheck hl)
    (run_cons (step_configure_ok hs rfl rfl) (run_one (step_initTransport_ok hs rfl rfl)))

/-! ## PASS_TEST -/

theorem step_passTest_positive (hs : s.state = .configuring) (hc : s.stepCode = StepCode.passTest)
    (hr : 0 < s.repeats.toInt) (hl : s.agenda = .sequencer :: l) :
    step s = .next { s with
      hostRdata := none, agenda := l, row := 0#16, state := .running, stepCode := StepCode.loadRow } :=
  (step_at hc hl).trans ((passTestOutcome { s with hostRdata := none, agenda := l } hs).1 hr)

theorem step_passTest_nonpositive (hs : s.state = .configuring) (hc : s.stepCode = StepCode.passTest)
    (hr : s.repeats.toInt ≤ 0) (hl : s.agenda = .sequencer :: l) :
    step s = .next { s with
      hostRdata := none, agenda := l, state := .terminated, stepCode := StepCode.halt } :=
  (step_at hc hl).trans ((passTestOutcome { s with hostRdata := none, agenda := l } hs).2 hr)

theorem run_start_positive (hi : s.Inv) (hs : s.state = .configuring) (hc : s.stepCode = StepCode.check)
    (hg : s.GeometryChecked) (hr : 0 < s.repeats.toInt)
    (hl : s.agenda = .sequencer :: .transport .ok :: .transport .ok :: .sequencer :: l) :
    Host.Core.run core 4 s
      = .next { s.started l with row := 0#16, state := .running, stepCode := StepCode.loadRow } :=
  run_add (run_started hi hs hc hg hl) (run_one (step_passTest_positive hs rfl hr rfl))

theorem run_start_nonpositive (hi : s.Inv) (hs : s.state = .configuring) (hc : s.stepCode = StepCode.check)
    (hg : s.GeometryChecked) (hr : s.repeats.toInt ≤ 0)
    (hl : s.agenda = .sequencer :: .transport .ok :: .transport .ok :: .sequencer :: l) :
    Host.Core.run core 4 s = .next { s.started l with state := .terminated, stepCode := StepCode.halt } :=
  run_add (run_started hi hs hc hg hl) (run_one (step_passTest_nonpositive hs rfl hr rfl))

/-- Settles O26: PASS_TEST terminates the run that CONFIGURE and INITIALIZE have started. -/
theorem nonPositiveRepeatsSendNothing : Obligations.NonPositiveRepeatsSendNothing := by
  intro s rest hi hs hc hg hr hl
  refine ⟨_, run_start_nonpositive (l := rest) hi hs hc hg hr hl, rfl, rfl, rfl, List.append_assoc _ _ _, ?_⟩
  exact congrArg (fun a => { s.started rest with state := .terminated, stepCode := StepCode.halt, txAnswer := a })
    hi.wired.no_answer.symm

end Sys2Proof.Machine
end

section
/-! PROOF. The turns of one frame: from LOAD_ROW or BLANK_FILL to the end of its delay (41_sequencer.md R139). -/

namespace Sys2Proof.Machine

variable {s : State} {frame : List Byte} {l : List Turn}

/-! ## The delay of the state -/

/-- The delay that follows a latch (R131). -/
def State.delayMs (s : State) : Half := if s.state = .running then s.rowDelayMs else s.passDelayMs

/-- The micro-operation that waits for it. -/
def State.delayCode (s : State) : MicroCode := if s.state = .running then StepCode.rowDelay else StepCode.passDelay

/-- The micro-operation after it (R132, R135). -/
def State.afterDelay (s : State) : MicroCode := if s.state = .running then StepCode.rowNext else StepCode.passEnd

theorem delayMs_running (hs : s.state = .running) : s.delayMs = s.rowDelayMs := if_pos hs

theorem delayMs_blanking (hs : s.state = .blanking) : s.delayMs = s.passDelayMs := if_neg (by simp [hs])

theorem afterDelay_running (hs : s.state = .running) : s.afterDelay = StepCode.rowNext := if_pos hs

theorem afterDelay_blanking (hs : s.state = .blanking) : s.afterDelay = StepCode.passEnd := if_neg (by simp [hs])

theorem isDelayStep_delayCode (s : State) : isDelayStep s.delayCode = true := by
  unfold State.delayCode
  split <;> rfl

theorem startDelay_eq (s : State) :
    startDelay s = { s with dlyCnt := s.delayMs, presc := 0, stepCode := s.delayCode } := by
  unfold startDelay State.delayMs State.delayCode
  split <;> rfl

/-! ## The steps of a frame -/

theorem readRange_of_scratchImage (hw : s.width.toNat ≤ s.cfg.maxLeds) (h : s.scratchImage = frame.map some) :
    readRange (scratchRead s) 0 s.rowBytes = .ok frame := by
  have hl : frame.length = s.rowBytes := by simpa [State.scratchImage] using (congrArg List.length h).symm
  refine scratchRange_eq hw hl fun j hj => ?_
  have hbyte := congrArg (·[j]?) h
  simpa [State.scratchImage, hj, hl ▸ hj] using hbyte

theorem step_encodeBuf (hs : s.state = .running ∨ s.state = .blanking) (hc : s.stepCode = StepCode.encodeBuf)
    (hw : s.width.toNat ≤ s.cfg.maxLeds) (himage : s.scratchImage = frame.map some) (hl : s.agenda = .sequencer :: l) :
    step s = .next { s with
      hostRdata := none, agenda := l, scratch := s.scratch.writeBytes 0 (encodeBuffer frame),
      stepCode := StepCode.txPayload } :=
  (step_at hc hl).trans (exec_encodeBuf_eq (s := { s with hostRdata := none, agenda := l }) hs
    (readRange_of_scratchImage hw himage) (rowBytes_le hw))

theorem step_txPayload_ok (hs : s.state = .running ∨ s.state = .blanking) (hc : s.stepCode = StepCode.txPayload)
    (hw : s.width.toNat ≤ s.cfg.maxLeds) (himage : s.scratchImage = frame.map some)
    (hl : s.agenda = .transport .ok :: l) :
    step s = .next { s with
      hostRdata := none, agenda := l, history := s.history ++ [.write s.channel frame .ok], txPending := none,
      txAnswer := none, stepCode := StepCode.txLatch } :=
  ((step_answered_at hc rfl hl).trans
    (exec_txPayload_eq (s := { s with hostRdata := none, agenda := l, txAnswer := some .ok }) hs
      (readRange_of_scratchImage hw himage))).trans (transact_ok rfl)

theorem step_txLatch_ok (hs : s.state = .running ∨ s.state = .blanking) (hc : s.stepCode = StepCode.txLatch)
    (hl : s.agenda = .transport .ok :: l) :
    step s = .next { s with
      hostRdata := none, agenda := l, history := s.history ++ [.write s.channel latch .ok], txPending := none,
      txAnswer := none, dlyCnt := s.delayMs, presc := 0, stepCode := s.delayCode } :=
  (((step_answered_at hc rfl hl).trans (exec_txLatch_eq hs)).trans (transact_ok rfl)).trans
    (congrArg Host.Outcome.next (startDelay_eq _))

/-- A running delay is over after its ticks (R222). -/
theorem run_ticks {n : Nat} (hs : s.state = .running ∨ s.state = .blanking) (hc : isDelayStep s.stepCode = true)
    (hd : s.dlyCnt.toNat = n) (hl : s.agenda = List.replicate n .tick ++ l) :
    Host.Core.run core n s = .next { s with dlyCnt := 0#16, agenda := l } := by
  induction n generalizing s with
  | zero =>
    have hl : s.agenda = l := hl
    rw [← dly_eq_zero.mpr hd, ← hl]
    rfl
  | succ n ih =>
    have hpos : 0 < s.dlyCnt.toNat := by omega
    have htick : tick { s with agenda := List.replicate n .tick ++ l }
        = { s with dlyCnt := s.dlyCnt - 1#16, agenda := List.replicate n .tick ++ l } := if_pos ⟨hs, hc, hpos⟩
    have hstep := (step_tick_of (rest := List.replicate n .tick ++ l) hl).trans (congrArg Host.Outcome.next htick)
    refine run_cons hstep (ih hs hc ?_ rfl)
    show (s.dlyCnt - 1#16).toNat = n
    rw [dly_pred_toNat hpos]
    omega

theorem step_delay_over (hs : s.state = .running ∨ s.state = .blanking) (hc : s.stepCode = s.delayCode)
    (hd : s.dlyCnt = 0#16) (hl : s.agenda = .sequencer :: l) :
    step s = .next { s with
      hostRdata := none, agenda := l, history := s.history ++ [.delayDone s.delayMs], stepCode := s.afterDelay } := by
  rw [step_at hc hl]
  rcases hs with hs | hs
  · rw [delayMs_running hs, afterDelay_running hs, State.delayCode, if_pos hs]
    exact (exec_rowDelay_eq (s := { s with hostRdata := none, agenda := l }) hs).trans (if_pos hd)
  · rw [delayMs_blanking hs, afterDelay_blanking hs, State.delayCode, if_neg (by simp [hs])]
    exact (exec_passDelay_eq (s := { s with hostRdata := none, agenda := l }) hs).trans (if_pos hd)

/-! ## The whole frame -/

/-- The events of one frame (R139). -/
def frameEvents (channel : BitVec 8) (ms : Half) (frame : List Byte) : List Event :=
  [.write channel (encodeBuffer frame) .ok, .write channel latch .ok, .delayDone ms]

/-- What whole frames change, control apart: the scratch buffer becomes `m` and the history `h`; the delay is over, no
request is pending, and `l` is still to come. -/
abbrev State.sent (s : State) (m : Memory) (h : List Event) (l : List Turn) : State :=
  { s with
    scratch := m, history := h, dlyCnt := 0#16, presc := 0, txPending := none, txAnswer := none,
    hostRdata := none, agenda := l }

theorem length_frameTurns (ms : Half) : (frameTurns ms).length = ms.toNat + 2 + 4 := by
  simp [frameTurns]

theorem frameTurns_append (ms : Half) : frameTurns ms ++ l = .sequencer :: .sequencer :: .transport .ok ::
    .transport .ok :: (List.replicate ms.toNat .tick ++ .sequencer :: .sequencer :: l) := by
  simp [frameTurns]

/-- The turns of a frame, from a step that fills the scratch buffer to one that ends the frame. -/
theorem run_frame {t : Memory → State} (hs : s.state = .running ∨ s.state = .blanking)
    (hw : s.width.toNat ≤ s.cfg.maxLeds) (hlen : frame.length = s.rowBytes)
    (hfill : ∀ l', s.agenda = .sequencer :: l' → step s = .next { s with
      hostRdata := none, agenda := l', scratch := s.scratch.writeBytes 0 frame, stepCode := StepCode.encodeBuf })
    (hl : s.agenda = frameTurns s.delayMs ++ l)
    (hend : ∀ m, step ((s.sent m (s.history ++ frameEvents s.channel s.delayMs frame) (.sequencer :: l)).goStep
      s.afterDelay) = .next (t m)) :
    ∃ m, Host.Core.run core (frameTurns s.delayMs).length s = .next (t m) := by
  have hhist : s.history ++ [.write s.channel (encodeBuffer frame) .ok] ++ [.write s.channel latch .ok]
      ++ [.delayDone s.delayMs] = s.history ++ frameEvents s.channel s.delayMs frame := by
    simp [frameEvents]
  have hlast := hend ((s.scratch.writeBytes 0 frame).writeBytes 0 (encodeBuffer frame))
  rw [← hhist] at hlast
  have himage' := (length_encodeBuffer frame).trans hlen
  rw [frameTurns_append] at hl
  rw [length_frameTurns]
  exact ⟨_, run_cons (hfill _ hl)
    (run_cons (step_encodeBuf hs rfl hw (scratchImage_of_store rfl hlen) rfl)
    (run_cons (step_txPayload_ok hs rfl hw (scratchImage_of_store rfl himage') rfl)
    (run_cons (step_txLatch_ok hs rfl rfl)
    (run_add (run_ticks hs (isDelayStep_delayCode s) rfl rfl)
    (run_cons (step_delay_over hs rfl rfl rfl) (run_one hlast))))))⟩

end Sys2Proof.Machine
end

section
/-! PROOF. Whole passes and whole runs (41_sequencer.md R139, R140). -/

namespace Sys2Proof.Machine

variable {s : State} {frame : List Byte} {frames : List (List Byte)} {l : List Turn} {t : Memory → State}

/-! ## One row, and the blank frame -/

/-- The turns of a row, up to what its ROW_NEXT answers. -/
theorem run_row (hi : s.Inv) (hs : s.state = .running) (hc : s.stepCode = StepCode.loadRow)
    (hframe : s.rowImage s.row.toNat = frame.map some) (hl : s.agenda = frameTurns s.rowDelayMs ++ l)
    (hend : ∀ m, exec .rowNext ((s.sent m (s.history ++ frameEvents s.channel s.rowDelayMs frame) l).goStep
      StepCode.rowNext) = .next (t m)) :
    ∃ m, Host.Core.run core (frameTurns s.rowDelayMs).length s = .next (t m) := by
  obtain ⟨hw, hrow, himage, hptr, hwritten⟩ := loadRowCopiesTheRow.2 s hi hs
  obtain ⟨bs, hbs⟩ := fsRange_ok (hrow.trans himage) hptr hwritten
  obtain rfl : frame = bs.map (gammaStage s.gammaEn) :=
    List.map_injective_iff.mpr (Option.some_injective _) (hframe.symm.trans (rowImage_of_readRange hbs))
  have hlen := (List.length_map (gammaStage s.gammaEn)).trans (readRange_eq_ok.mp hbs).1
  rw [← delayMs_running hs] at hl hend ⊢
  refine run_frame (.inl hs) hw hlen (fun l' hl' => (step_at hc hl').trans ?_) hl fun m => ?_
  · exact exec_loadRow_eq (s := { s with hostRdata := none, agenda := l' }) hs hbs (rowBytes_le hw)
  · rw [afterDelay_running hs]
    exact (step_at (c := StepCode.rowNext) rfl rfl).trans (hend m)

/-- The turns of the blank frame, up to what its PASS_END answers. -/
theorem run_blank (hi : s.Inv) (hs : s.state = .blanking) (hc : s.stepCode = StepCode.blankFill)
    (hl : s.agenda = frameTurns s.passDelayMs ++ l)
    (hend : ∀ m, exec .passEnd ((s.sent m (s.history
      ++ frameEvents s.channel s.passDelayMs (List.replicate s.rowBytes 0x00#8)) l).goStep StepCode.passEnd)
      = .next (t m)) :
    ∃ m, Host.Core.run core (frameTurns s.passDelayMs).length s = .next (t m) := by
  obtain ⟨hg, -⟩ := hi.r47.checked (.inr hs)
  rw [← delayMs_blanking hs] at hl hend ⊢
  refine run_frame (frame := List.replicate s.rowBytes 0x00#8) (.inr hs) hg.width_le List.length_replicate
    (fun l' hl' => (step_at hc hl').trans ?_) hl fun m => ?_
  · exact exec_blankFill_eq (s := { s with hostRdata := none, agenda := l' }) hs (rowBytes_le hg.width_le)
  · rw [afterDelay_blanking hs]
    exact (step_at (c := StepCode.passEnd) rfl rfl).trans (hend m)

/-! ## The rows of a pass -/

theorem length_flatten_replicate_succ {α : Type} (n : Nat) (xs : List α) :
    (List.replicate (n + 1) xs).flatten.length = xs.length + (List.replicate n xs).flatten.length := by
  rw [List.replicate_succ, List.flatten_cons, List.length_append]

/-- The rows from `ROW` on, one for each frame of `frames`, up to BLANK_FILL. -/
theorem run_rows (hi : s.Inv) (hs : s.state = .running) (hc : s.stepCode = StepCode.loadRow)
    (hlen : s.row.toNat + frames.length = s.height.toNat)
    (hframes : ∀ j, (h : j < frames.length) → s.rowImage (s.row.toNat + j) = frames[j].map some)
    (hl : s.agenda = (List.replicate frames.length (frameTurns s.rowDelayMs)).flatten ++ l) :
    ∃ m, Host.Core.run core (List.replicate frames.length (frameTurns s.rowDelayMs)).flatten.length s
      = .next ({ s.sent m (s.history ++ frames.flatMap (frameEvents s.channel s.rowDelayMs)) l with
          row := s.height }.goto .blanking StepCode.blankFill) := by
  induction frames generalizing s with
  | nil =>
    have hrow := hi.r47.row_running hs
    rw [List.length_nil] at hlen
    omega
  | cons f fs ih =>
    have hrow := hi.r47.row_running hs
    have hsucc := row_succ_toNat hrow
    rw [List.length_cons] at hlen
    have hl : s.agenda = frameTurns s.rowDelayMs
        ++ ((List.replicate fs.length (frameTurns s.rowDelayMs)).flatten ++ l) := by
      rw [hl, List.length_cons, List.replicate_succ, List.flatten_cons, List.append_assoc]
    rw [List.length_cons, length_flatten_replicate_succ, List.flatMap_cons, ← List.append_assoc]
    by_cases hlt : s.row.toNat + 1 < s.height.toNat
    · obtain ⟨m, hrun⟩ := run_row hi hs hc (hframes 0 (Nat.succ_pos _)) hl fun m =>
        (exec_rowNext_eq (s := (s.sent m _ _).goStep StepCode.rowNext) hs).trans (if_pos hlt)
      have hlen' : (s.row + 1#16).toNat + fs.length = s.height.toNat := by omega
      have hframes' (j : Nat) (h : j < fs.length) : s.rowImage ((s.row + 1#16).toNat + j) = fs[j].map some := by
        rw [hsucc, Nat.add_assoc, Nat.add_comm 1 j]
        exact hframes (j + 1) (Nat.succ_lt_succ h)
      obtain ⟨m', hrun'⟩ := ih (run_keeps_inv hi hrun) hs rfl hlen' hframes' rfl
      exact ⟨m', run_add hrun hrun'⟩
    · obtain rfl : fs = [] := List.length_eq_zero_iff.mp (by omega)
      obtain ⟨m, hrun⟩ := run_row hi hs hc (hframes 0 (Nat.succ_pos _)) hl fun m =>
        (exec_rowNext_eq (s := (s.sent m _ _).goStep StepCode.rowNext) hs).trans (if_neg hlt)
      rw [List.flatMap_nil, List.append_nil, ← row_succ_eq_height hrow hlt]
      exact ⟨m, hrun⟩

/-! ## One pass -/

theorem passHistory_eq (s : State) (frames : List (List Byte)) :
    passHistory s frames = frames.flatMap (frameEvents s.channel s.rowDelayMs)
      ++ frameEvents s.channel s.passDelayMs (List.replicate s.rowBytes 0x00#8) := by
  rw [frameEvents, encodeBuffer_blank]
  rfl

/-- The turns of a pass, up to what its PASS_END answers. -/
theorem run_pass (hi : s.Inv) (hs : s.state = .running) (hc : s.stepCode = StepCode.loadRow) (hrow : s.row = 0#16)
    (hframes : s.FramesAre frames) (hl : s.agenda = passTurns s ++ l)
    (hend : ∀ m, exec .passEnd ({ s.sent m (s.history ++ passHistory s frames) l with
      row := s.height }.goto .blanking StepCode.passEnd) = .next (t m)) :
    ∃ m, Host.Core.run core (passTurns s).length s = .next (t m) := by
  obtain ⟨hlen, himage⟩ := hframes
  have hzero : s.row.toNat = 0 := by rw [hrow]; rfl
  rw [passTurns, List.append_assoc, ← hlen] at hl
  rw [passHistory_eq, ← List.append_assoc] at hend
  obtain ⟨m, hrun⟩ := run_rows hi hs hc (by omega) (fun j h => by rw [hzero, Nat.zero_add]; exact himage j h) hl
  obtain ⟨m', hrun'⟩ := run_blank (run_keeps_inv hi hrun) rfl rfl rfl hend
  rw [passTurns, ← hlen, List.length_append]
  exact ⟨m', run_add hrun hrun'⟩

/-! ## Counting the writes -/

section
variable {p : Event → Bool}

theorem length_filter_flatMap {α β : Type} {q : β → Bool} {f : α → List β} {n : Nat}
    (h : ∀ a, ((f a).filter q).length = n) (xs : List α) : ((xs.flatMap f).filter q).length = n * xs.length := by
  induction xs with
  | nil => rfl
  | cons x xs ih => rw [List.flatMap_cons, List.filter_append, List.length_append, h, ih, List.length_cons]; ring

theorem length_filter_passHistory (hw : ∀ c bs a, p (.write c bs a) = true) (hd : ∀ ms, p (.delayDone ms) = false)
    (hframes : s.FramesAre frames) : ((passHistory s frames).filter p).length = 2 * s.height.toNat + 2 := by
  have two (c : BitVec 8) (ms : Half) (f : List Byte) : ((frameEvents c ms f).filter p).length = 2 := by
    simp [frameEvents, hw, hd]
  rw [passHistory_eq, List.filter_append, List.length_append, two, length_filter_flatMap (two _ _),
    hframes.1]

theorem length_filter_flatten_replicate {α : Type} (q : α → Bool) (n : Nat) (xs : List α) :
    ((List.replicate n xs).flatten.filter q).length = n * (xs.filter q).length := by
  simp [List.filter_flatten]

/-- A run of `k` passes makes `k * (2 * HEIGHT + 2)` writes. -/
theorem length_filter_runHistory {start : List Event} (hstart : start.filter p = [])
    (hw : ∀ c bs a, p (.write c bs a) = true) (hd : ∀ ms, p (.delayDone ms) = false) (hframes : s.FramesAre frames)
    (k : Nat) : ((start ++ (List.replicate k (passHistory s frames)).flatten).filter p).length
      = k * (2 * s.height.toNat + 2) := by
  rw [List.filter_append, hstart, List.nil_append, length_filter_flatten_replicate,
    length_filter_passHistory hw hd hframes]

end

/-- Settles O54: the pass up to PASS_END, which counts it. -/
theorem onePassEmitsItsHistory : Obligations.OnePassEmitsItsHistory := by
  intro s frames rest hi hs hc hrow hframes hl
  obtain ⟨-, hrep⟩ := hi.r47.checked (.inl hs)
  have hpred := repeats_pred_toInt hrep
  by_cases hmore : 1 < s.repeats.toInt
  · obtain ⟨m, hrun⟩ := run_pass hi hs hc hrow hframes hl fun _ => exec_passEnd_more rfl hmore
    exact ⟨_, hrun, rfl, length_filter_passHistory (fun _ _ _ => rfl) (fun _ => rfl) hframes, hpred, rfl, rfl,
      fun _ => ⟨rfl, rfl⟩, fun h => by omega⟩
  · have hlast : s.repeats.toInt = 1 := by omega
    obtain ⟨m, hrun⟩ := run_pass hi hs hc hrow hframes hl fun _ => exec_passEnd_last rfl hlast
    exact ⟨_, hrun, rfl, length_filter_passHistory (fun _ _ _ => rfl) (fun _ => rfl) hframes, hpred, rfl, rfl,
      fun h => absurd h hmore, fun _ => ⟨rfl, rfl⟩⟩

/-! ## All passes -/

/-- The passes of a run, one for each of `REPEATS`. -/
theorem run_passes {n : Nat} (hi : s.Inv) (hs : s.state = .running) (hc : s.stepCode = StepCode.loadRow)
    (hrow : s.row = 0#16) (hframes : s.FramesAre frames) (hrep : s.repeats.toInt = n + 1)
    (hl : s.agenda = (List.replicate (n + 1) (passTurns s)).flatten ++ l) :
    ∃ m, Host.Core.run core (List.replicate (n + 1) (passTurns s)).flatten.length s
      = .next ({ s.sent m (s.history ++ (List.replicate (n + 1) (passHistory s frames)).flatten) l with
          row := 0#16, repeats := 0#32 }.goto .terminated StepCode.halt) := by
  induction n generalizing s with
  | zero =>
    have hlast : s.repeats.toInt = 1 := hrep
    have hzero : s.repeats - 1#32 = 0#32 := BitVec.eq_of_toInt_eq (by rw [repeats_pred_toInt hlast.ge, hlast]; rfl)
    simp only [Nat.zero_add, List.replicate_one, List.flatten_singleton] at hl ⊢
    rw [← hzero]
    exact run_pass hi hs hc hrow hframes hl fun _ => exec_passEnd_last rfl hlast
  | succ n ih =>
    have hmore : 1 < s.repeats.toInt := by omega
    have hrep' : (s.repeats - 1#32).toInt = n + 1 := by rw [repeats_pred_toInt hmore.le]; omega
    rw [List.replicate_succ, List.flatten_cons, List.append_assoc] at hl
    obtain ⟨m, hrun⟩ := run_pass hi hs hc hrow hframes hl fun _ => exec_passEnd_more rfl hmore
    obtain ⟨m', hrun'⟩ := ih (run_keeps_inv hi hrun) rfl rfl rfl hframes hrep' rfl
    rw [length_flatten_replicate_succ, List.replicate_succ (a := passHistory s frames), List.flatten_cons,
      ← List.append_assoc]
    exact ⟨m', run_add hrun hrun'⟩

/-- Settles O55: the run before the first pass, and then, if `REPEATS > 0`, its passes. -/
theorem successfulRunEmitsItsHistory : Obligations.SuccessfulRunEmitsItsHistory := by
  intro s frames rest hi hs hc hg hhist hframes k turns hl
  have hlen : turns.length = 4 + (List.replicate k (passTurns s)).flatten.length := List.length_append
  -- the whole history is known, and a run that ends in `TERMINATED` has `ERR` = 0
  suffices h : ∃ t, Host.Core.run core turns.length s = .next t
      ∧ t.history = s.history ++ [.configure s.channel s.clockHz .ok] ++ [.initTransport .ok]
        ++ (List.replicate k (passHistory s frames)).flatten
      ∧ t.state = .terminated ∧ t.repeats.toInt = min s.repeats.toInt 0 ∧ t.row = 0#16 by
    obtain ⟨t, hrun, hh, ht, hrep, hrow⟩ := h
    rw [hhist] at hh
    refine ⟨t, hrun, hh, ?_, ht, hrep, hrow, ((run_keeps_inv hi hrun).factsIn ht).1⟩
    rw [hh]
    exact length_filter_runHistory rfl (fun _ _ _ => rfl) (fun _ => rfl) hframes k
  by_cases hpos : 0 < s.repeats.toInt
  · obtain ⟨n, hn⟩ : ∃ n, k = n + 1 := Nat.exists_eq_succ_of_ne_zero (by omega)
    have hrep : s.repeats.toInt = n + 1 := by omega
    have hstart := run_start_positive (l := (List.replicate k (passTurns s)).flatten ++ rest) hi hs hc hg hpos hl
    rw [hn] at hstart
    rw [hlen, hn]
    obtain ⟨m, hrun⟩ := run_passes (run_keeps_inv hi hstart) rfl rfl rfl hframes hrep rfl
    exact ⟨_, run_add hstart hrun, rfl, rfl, (min_eq_right hpos.le).symm, rfl⟩
  · have hrep : s.repeats.toInt ≤ 0 := by omega
    have hk : k = 0 := Int.toNat_of_nonpos hrep
    have hrow := hi.wired.row_zero (.inr (.inl hs))
    have hstart := run_start_nonpositive (l := (List.replicate k (passTurns s)).flatten ++ rest) hi hs hc hg hrep hl
    rw [hlen, hk]
    exact ⟨_, hstart, (List.append_nil _).symm, rfl, (min_eq_left hrep).symm, hrow⟩

end Sys2Proof.Machine
end

section
/-! PROOF. What each host transaction answers: the reads, the configuration lock, and the writes one by one
(42_host_interface.md R160 to R187). -/

namespace Sys2Proof.Machine

variable {s t : State} {i : Instr}

/-! ## Operands (30_encoding.md R76, R78) -/

@[simp] theorem halfOperand_toNat (d : Word) : (halfOperand d).toNat = d.toNat % 65536 := by
  rw [halfOperand, BitVec.extractLsb'_toNat, Nat.shiftRight_zero]

@[simp] theorem byteOperand_toNat (d : Word) : (byteOperand d).toNat = d.toNat % 256 := by
  rw [byteOperand, BitVec.extractLsb'_toNat, Nat.shiftRight_zero]

theorem zext32_toNat {n : Nat} (h : n ≤ 32) (v : BitVec n) : (zext32 v).toNat = v.toNat :=
  BitVec.toNat_setWidth_of_le h

theorem ctrlWord_toNat (s : State) : s.ctrlWord.toNat = if s.gammaEn then 4 else 0 := by
  rw [State.ctrlWord]
  cases s.gammaEn <;> rfl

/-! ## Reads -/

theorem exec_read (hi : isHostRead i = true) (s : State) : ∃ v, exec i s = .next (hostReturn v s) := by
  cases i <;> cases hi <;> exact ⟨_, rfl⟩

/-- Settles O8: RD_CTRL returns the assembled CTRL word, the others their register or 0. -/
theorem readsReturnTheirRegister : Obligations.ReadsReturnTheirRegister :=
  ⟨⟨rfl, rfl, rfl, rfl⟩, fun s =>
    ⟨⟨_, rfl, ctrlWord_toNat s⟩, rfl, ⟨_, rfl, zext32_toNat (by decide) _⟩, ⟨_, rfl, zext32_toNat (by decide) _⟩,
      ⟨_, rfl, zext32_toNat (by decide) _⟩, rfl, ⟨_, rfl, zext32_toNat (by decide) _⟩,
      ⟨_, rfl, zext32_toNat (by decide) _⟩, ⟨_, rfl, zext32_toNat (by decide) _⟩, rfl, rfl,
      fun _ => ⟨rfl, rfl, rfl⟩⟩⟩

/-! ## Writes without effect -/

theorem exec_inertWrite (hi : isInertWrite i = true) (s : State) : exec i s = .next s := by
  cases i <;> cases hi <;> rfl

/-- Settles O11: such a write answers the state it was given. -/
theorem inertWrites : Obligations.InertWrites := fun _ => exec_inertWrite

/-! ## The configuration lock (R161) -/

theorem exec_of_idle {f : State → State} (hs : s.state = .idle) (h : exec i s = .next (whenIdle f s)) (ht : f s = t) :
    exec i s = .next t := by
  rw [h, whenIdle_idle hs, ht]

/-- A locked write is an effect under the lock, and the effect returns no data. -/
theorem lockedWrite_eq_whenIdle (hi : isLockedWrite i = true) :
    ∃ f, (∀ s, exec i s = .next (whenIdle f s)) ∧ ∀ s, (f s).hostRdata = s.hostRdata := by
  cases i <;> cases hi
  case wrCtrl d =>
    refine ⟨_, fun _ => rfl, fun s => ?_⟩
    dsimp only
    split <;> split <;> rfl
  case wrFsData d =>
    refine ⟨_, fun _ => rfl, fun s => ?_⟩
    split <;> rfl
  all_goals exact ⟨_, fun _ => rfl, fun _ => rfl⟩

theorem exec_lockedWrite (hi : isLockedWrite i = true) (hs : s.state ≠ .idle) : exec i s = .next s := by
  obtain ⟨f, hf, -⟩ := lockedWrite_eq_whenIdle hi
  rw [hf, whenIdle_locked hs]

/-- Settles O10: outside `IDLE` the lock drops the effect of a write, and it holds no read. -/
theorem configurationLock : Obligations.ConfigurationLock :=
  ⟨fun _ hi _ hs => exec_lockedWrite hi hs, fun _ => exec_read⟩

/-! ## Every host word -/

/-- A write returns no data (R160). -/
theorem exec_write_hostRdata (hi : (isLockedWrite i || isInertWrite i) = true) (h : exec i s = .next t) :
    t.hostRdata = s.hostRdata := by
  rcases Bool.or_eq_true_iff.mp hi with hi | hi
  · obtain ⟨f, hf, hkeeps⟩ := lockedWrite_eq_whenIdle hi
    obtain rfl := Host.Outcome.next.inj ((hf s).symm.trans h)
    by_cases hs : s.state = .idle
    · rw [whenIdle_idle hs, hkeeps]
    · rw [whenIdle_locked hs]
  · obtain rfl := Host.Outcome.next.inj ((exec_inertWrite hi s).symm.trans h)
    rfl

theorem decodeRead_isHostRead (a : HostIndex) : isHostRead (decodeRead a) = true := by
  revert a; decide

theorem decodeWrite_isWrite (a : HostIndex) (d : Word) :
    (isLockedWrite (decodeWrite a d) || isInertWrite (decodeWrite a d)) = true := by
  rcases hostIndex_cases a with
    h | h | h | rfl | rfl | rfl | rfl | rfl | rfl | rfl | rfl | rfl | rfl | rfl | rfl
  · rw [decodeWrite_12to15 h]
    rfl
  · rw [decodeWrite_16to31 h]
    rfl
  · rw [decodeWrite_32to63 h]
    rfl
  all_goals rfl

/-- What a host transaction leaves unchanged: the run (ROW, ERR, DLY_CNT, PRESC, scratch buffer, transport), the
history, the parameters and the agenda. -/
theorem HostEffect.frame (h : HostEffect s t) : t = { s with
    width := t.width, height := t.height, repeats := t.repeats, channel := t.channel, clockHz := t.clockHz,
    rowDelayMs := t.rowDelayMs, passDelayMs := t.passDelayMs, gammaEn := t.gammaEn, state := t.state,
    stepCode := t.stepCode, fsPtr := t.fsPtr, fsOvf := t.fsOvf, fs := t.fs, hostRdata := t.hostRdata } := by
  cases h
  case ctrl => split <;> split <;> rfl
  all_goals rfl

/-- Settles O17: the direction of the word says whether its transaction is a read or a write. -/
theorem hostTransactionsNeverFail : Obligations.HostTransactionsNeverFail := by
  intro w s
  obtain ⟨t, ht, heffect⟩ := exec_host (decodeHost_isHostInstr w) s
  obtain ⟨we, a, d, rfl⟩ := exists_hostWord w
  have hdir : (hostWord we a d).getLsbD 38 = we := hostWe_hostWord we a d
  refine ⟨t, ht, fun hread => ?_, fun hwrite => ?_, heffect.frame⟩
  · obtain rfl := hdir.symm.trans hread
    obtain ⟨v, hv⟩ := exec_read (decodeRead_isHostRead a) s
    rw [decodeHost_read] at ht
    exact ⟨v, Host.Outcome.next.inj (ht.symm.trans hv)⟩
  · obtain rfl := hdir.symm.trans hwrite
    rw [decodeHost_write] at ht
    exact exec_write_hostRdata (decodeWrite_isWrite a d) ht

/-! ## Configuration and geometry (R166 to R178) -/

/-- Settles O12: under the lock each write stores its operand. -/
theorem configurationWrites : Obligations.ConfigurationWrites :=
  ⟨fun d _ hs => ⟨⟨_, exec_of_idle hs rfl rfl, rfl⟩, ⟨_, exec_of_idle hs rfl rfl, byteOperand_toNat d⟩,
      ⟨_, exec_of_idle hs rfl rfl, rfl⟩, ⟨_, exec_of_idle hs rfl rfl, halfOperand_toNat d⟩,
      ⟨_, exec_of_idle hs rfl rfl, halfOperand_toNat d⟩⟩,
    fun _ _ hs => ⟨exec_lockedWrite rfl hs, exec_lockedWrite rfl hs, exec_lockedWrite rfl hs, exec_lockedWrite rfl hs,
      exec_lockedWrite rfl hs⟩,
    rfl, rfl, rfl, rfl⟩

/-- An illegal geometry fails the start check. -/
theorem startCheck_of_illegal_geometry
    (h : s.width.toNat = 0 ∨ s.height.toNat = 0 ∨ s.cfg.maxLeds < s.width.toNat) :
    ∃ code, startCheck s = some code ∧ code ≠ .none := by
  by_cases hzero : s.width.toNat = 0 ∨ s.height.toNat = 0
  · exact ⟨_, startCheck_geometry hzero, by decide⟩
  · exact ⟨_, startCheck_capacity (by omega) (by omega) (.inl (by omega)), by decide⟩

/-- Settles O13: the write stores any value, and the start check looks at it. -/
theorem geometryWrites : Obligations.GeometryWrites :=
  ⟨fun d _ hs => ⟨⟨_, exec_of_idle hs rfl rfl, halfOperand_toNat d⟩, ⟨_, exec_of_idle hs rfl rfl, halfOperand_toNat d⟩⟩,
    fun _ _ hs => ⟨exec_lockedWrite rfl hs, exec_lockedWrite rfl hs⟩,
    fun _ hs h =>
      have ⟨_, hcode, hne⟩ := startCheck_of_illegal_geometry h
      ⟨_, exec_check_fails hs hcode, rfl, hne⟩⟩

/-! ## CTRL (R162) -/

/-- The effect of a CTRL write in `IDLE`, field by field. -/
theorem exec_wrCtrl_idle (hs : s.state = .idle) (d : Word) : exec (.wrCtrl d) s = .next { s with
    gammaEn := ctrlGammaEn d
    fsPtr := if ctrlFsReset d then 0#32 else s.fsPtr
    fsOvf := if ctrlFsReset d then false else s.fsOvf
    state := if ctrlStart d then .configuring else s.state
    stepCode := if ctrlStart d then StepCode.check else s.stepCode } := by
  refine exec_of_idle hs rfl ?_
  cases ctrlStart d <;> cases ctrlFsReset d <;> rfl

theorem imageBytes_pos (hw : s.width.toNat ≠ 0) (hh : s.height.toNat ≠ 0) : 0 < s.imageBytes :=
  Nat.mul_pos (Nat.mul_pos (by decide) (Nat.pos_of_ne_zero hw)) (Nat.pos_of_ne_zero hh)

/-- With `FS_PTR` = 0 the start check fails: a geometry without zeros has an image of at least one byte. -/
theorem startCheck_of_fsPtr_zero (h : s.fsPtr = 0#32) : ∃ code, startCheck s = some code := by
  refine Option.ne_none_iff_exists'.mp fun hnone => ?_
  obtain ⟨⟨hw, -, hh, hloaded⟩, -⟩ := startCheck_eq_none.mp hnone
  rw [h] at hloaded
  exact absurd hloaded (imageBytes_pos (Nat.one_le_iff_ne_zero.mp hw) (Nat.one_le_iff_ne_zero.mp hh)).not_ge

/-- With `FS_PTR` = 0 the order of the start checks (R123) says which of the geometry and the load CHECK rejects. -/
theorem exec_check_of_fsPtr_zero (hs : s.state = .configuring) (hptr : s.fsPtr = 0#32) :
    ∃ u, exec .check s = .next u ∧ u.state = .failed
      ∧ (s.width.toNat = 0 ∨ s.height.toNat = 0 → u.err = .geometry)
      ∧ (s.width.toNat ≠ 0 → s.height.toNat ≠ 0 → s.width.toNat ≤ s.cfg.maxLeds → s.imageBytes ≤ s.cfg.fsBytes →
          u.err = .truncated) := by
  obtain ⟨code, hcode⟩ := startCheck_of_fsPtr_zero hptr
  refine ⟨_, exec_check_fails hs hcode, rfl, fun h => ?_, fun hw hh hleds hfit => ?_⟩
  · exact Option.some.inj (hcode.symm.trans (startCheck_geometry h))
  · have hempty : s.fsPtr.toNat < s.imageBytes := by
      rw [hptr]
      exact imageBytes_pos hw hh
    exact Option.some.inj (hcode.symm.trans (startCheck_truncated hw hh hleds hfit hempty))

/-- Settles O14: the fields of the effect, and the start check of the state it leaves. -/
theorem ctrlWrite : Obligations.CtrlWrite := fun d _ =>
  ⟨exec_lockedWrite rfl, fun hs => ⟨_, exec_wrCtrl_idle hs d, rfl,
    fun hreset => ⟨if_pos hreset, if_pos hreset⟩,
    fun hreset => ⟨if_neg (ne_true_of_eq_false hreset), if_neg (ne_true_of_eq_false hreset)⟩,
    fun hstart => ⟨if_pos hstart, if_pos hstart⟩,
    fun hstart => ⟨(if_neg (ne_true_of_eq_false hstart)).trans hs, if_neg (ne_true_of_eq_false hstart)⟩,
    rfl, fun hstart hreset => exec_check_of_fsPtr_zero (if_pos hstart) (if_pos hreset)⟩⟩

/-! ## FS_DATA (R184) -/

theorem exec_wrFsData_full (hs : s.state = .idle) (hfull : s.cfg.fsBytes ≤ s.fsPtr.toNat) (d : Word) :
    exec (.wrFsData d) s = .next { s with fsOvf := true } :=
  exec_of_idle hs rfl (if_neg hfull.not_gt)

/-- Settles O15: with room the byte is appended, and the frame store is read after that one write. -/
theorem fsDataWrite : Obligations.FsDataWrite := by
  refine fun d _ hp => ⟨exec_lockedWrite rfl, fun hs hfull => exec_wrFsData_full hs hfull d, fun hs hroom =>
    ⟨_, exec_wrFsData_room hs hroom d, ⟨byteOperand d, ?_, byteOperand_toNat d⟩, fun a ha => ?_,
      fsPtr_succ_toNat hp hroom, rfl⟩⟩
  · rw [fsAppend_fs, Memory.read_write, if_pos rfl]
  · rw [fsAppend_fs, Memory.read_write, if_neg ha]

end Sys2Proof.Machine
end

section
/-! PROOF. Fatal entry and the end of a run (60_exceptions.md R200 to R206, 41_sequencer.md R137). -/

namespace Sys2Proof.Machine

variable {s t : State} {i : Instr}

/-! ## Which instructions enter FAILED (R202) -/

/-- The micro-operations that can be fatal: CHECK, and those that issue a request. -/
def canBeFatal : Instr → Bool
  | .check | .configure | .initTransport | .txPayload | .txLatch => true
  | _ => false

theorem HostEffect.of_exec (h : exec i s = .next t) (hi : isHostInstr i = true) : HostEffect s t := by
  obtain ⟨u, hu, heffect⟩ := exec_host hi s
  obtain rfl := Host.Outcome.next.inj (hu.symm.trans h)
  exact heffect

/-- A host transaction changes `STATE` by START alone. -/
theorem HostEffect.state_cases (h : HostEffect s t) : t.state = s.state ∨ t.state = .configuring := by
  cases h with
  | ctrl data =>
    cases ctrlStart data with
    | true => exact .inr rfl
    | false => cases ctrlFsReset data <;> exact .inl rfl
  | _ => exact .inl rfl

theorem exec_not_failed (hi : canBeFatal i = false) (h : exec i s = .next t) (hs : s.state ≠ .failed) :
    t.state ≠ .failed := by
  cases i with
  | check | configure | initTransport | txPayload | txLatch => cases hi
  | waitStart =>
    obtain ⟨-, rfl⟩ := exec_waitStart_next h
    exact hs
  | passTest => obtain ⟨-, ⟨-, rfl⟩ | ⟨-, rfl⟩⟩ := exec_passTest_next h <;> nofun
  | loadRow =>
    obtain ⟨-, _, -, -, -, rfl⟩ := exec_loadRow_next h
    exact hs
  | encodeBuf =>
    obtain ⟨-, _, -, -, -, rfl⟩ := exec_encodeBuf_next h
    exact hs
  | rowDelay => obtain ⟨-, ⟨-, rfl⟩ | ⟨-, rfl⟩⟩ := exec_rowDelay_next h <;> exact hs
  | rowNext =>
    obtain ⟨-, ⟨-, rfl⟩ | ⟨-, rfl⟩⟩ := exec_rowNext_next h
    · exact hs
    · nofun
  | blankFill =>
    obtain ⟨-, -, rfl⟩ := exec_blankFill_next h
    exact hs
  | passDelay => obtain ⟨-, ⟨-, rfl⟩ | ⟨-, rfl⟩⟩ := exec_passDelay_next h <;> exact hs
  | passEnd => obtain ⟨-, ⟨-, rfl⟩ | ⟨-, rfl⟩⟩ := exec_passEnd_next h <;> nofun
  | halt =>
    obtain ⟨-, rfl⟩ := exec_halt_next h
    exact hs
  | stepRsvd => exact (exec_stepRsvd_next h).elim
  | _ => exact (HostEffect.of_exec h rfl).state_cases.elim (fun e => e ▸ hs) (fun e => by simp [e])

/-- Where `Ok` does not lead to `FAILED`, a request that enters it was answered `Err`. -/
theorem Requested.fatal {r : Request} {event : Answer → Event} {code : ErrCode} {onOk : State → State}
    (h : Requested r event code onOk s t) (hok : ∀ v, (onOk v).state = v.state) (hs : s.state ≠ .failed)
    (ht : t.state = .failed) : s.txAnswer = some .err
      ∧ t = raiseFatal code (emit (event .err) { s with txPending := none, txAnswer := none }) := by
  rcases h with ⟨-, rfl⟩ | ⟨-, rfl⟩ | herr
  · exact absurd ht hs
  · exact absurd ((hok _).symm.trans ht) hs
  · exact herr

theorem startDelay_state (s : State) : (startDelay s).state = s.state := by rw [startDelay_eq]

/-- Settles O40, by the instruction: CHECK fails with the code of its start check, a request with that of its state. -/
theorem fatalEntryIsPrecise : Obligations.FatalEntryIsPrecise := by
  intro i s t h hs ht
  cases i with
  | check =>
    obtain ⟨hp, ⟨e, he, rfl⟩ | ⟨-, rfl⟩⟩ := exec_check_next h
    · refine ⟨?_, fun _ => rfl, nofun, nofun, nofun, nofun, fun hn => absurd rfl hn⟩
      rcases startCheck_code he with rfl | rfl | rfl <;> simp [hp]
    · exact absurd ht hs
  | configure =>
    obtain ⟨hp, hr⟩ := exec_configure_next h
    obtain ⟨ha, rfl⟩ := hr.fatal (fun _ => rfl) hs ht
    exact ⟨by simp [hp], nofun, fun _ => rfl, nofun, nofun, nofun, fun _ => ⟨ha, rfl⟩⟩
  | initTransport =>
    obtain ⟨hp, hr⟩ := exec_initTransport_next h
    obtain ⟨ha, rfl⟩ := hr.fatal (fun _ => rfl) hs ht
    exact ⟨by simp [hp], nofun, nofun, fun _ => rfl, nofun, nofun, fun _ => ⟨ha, rfl⟩⟩
  | txPayload =>
    obtain ⟨hp, p, hread, hl, hr⟩ := exec_txPayload_next h
    obtain ⟨ha, rfl⟩ := hr.fatal (fun _ => rfl) hs ht
    have hbytes : ∀ j, (hj : j < p.length) → s.scratch.read j = some p[j] := fun j hj => by
      obtain ⟨-, -, hbyte⟩ := scratchRead_eq_ok.mp ((readRange_eq_ok.mp hread).2 j hj)
      rwa [Nat.zero_add] at hbyte
    refine ⟨?_, nofun, nofun, nofun, fun _ => ⟨p, hl, hbytes, rfl⟩, nofun, fun _ => ⟨ha, rfl⟩⟩
    rcases hp with hp | hp <;> simp [hp]
  | txLatch =>
    obtain ⟨hp, hr⟩ := exec_txLatch_next h
    obtain ⟨ha, rfl⟩ := hr.fatal startDelay_state hs ht
    refine ⟨?_, nofun, nofun, nofun, nofun, fun _ => rfl, fun _ => ⟨ha, rfl⟩⟩
    rcases hp with hp | hp <;> simp [hp]
  | _ => exact absurd ht (exec_not_failed rfl h hs)

/-! ## Only reset leaves HALT (R137, R205) -/

/-- Settles O41, by the turn that comes next: at HALT nothing is enabled, no request waits for an answer, the host port
is locked and no delay runs. -/
theorem haltedUntilReset : Obligations.HaltedUntilReset := by
  intro s hs hc herr hr
  have hlocked : s.state ≠ .idle := by rcases hs with hs | hs <;> simp [hs]
  have htransport : isTransportStep s.stepCode = false := by rw [hc]; rfl
  have hdelay : isDelayStep s.stepCode = false := by rw [hc]; rfl
  cases hn : s.nextTurn with
  | sequencer =>
    have hstep := step_sequencer hn
    rw [show decodeStep s.stepCode = .halt by rw [hc]; rfl] at hstep
    exact ⟨_, hstep.trans (exec_halt_eq hs.symm (isReserved_eq_false herr)), rfl, fun _ => rfl⟩
  | transport => exact ⟨_, step_transport_ignored hn htransport, rfl, fun _ => rfl⟩
  | abandoned => exact ⟨_, step_abandoned hn, rfl, fun _ => rfl⟩
  | txDataReady =>
    refine ⟨_, step_txDataReady hn, rfl, fun h => ?_⟩
    have hnone : s.txPending = none := h.resolve_right fun h => h rfl
    rw [acceptByte_txPending, hnone]
    rfl
  | host w =>
    obtain ⟨t, ht, heffect⟩ := hostTurn_next w s.dropTurn
    obtain ⟨r, rfl⟩ := heffect.eq_of_locked hlocked
    exact ⟨_, (step_host hn).trans ht, rfl, fun _ => rfl⟩
  | tick => exact ⟨_, (step_tick hn).trans (congrArg _ ((tick_frame _).2 hdelay)), rfl, fun _ => rfl⟩
  | cycle => exact ⟨_, (step_cycle hn).trans (congrArg _ ((clockCycle_frame _).2 hdelay)), rfl, fun _ => rfl⟩
  | reset => exact absurd hn hr

end Sys2Proof.Machine
end

section
/-! PROOF. The delay timer, by ticks and by clock cycles (60_exceptions.md R220 to R223). -/

namespace Sys2Proof.Machine

variable {s t : State}

/-! ## Ticks (R220) -/

theorem tick_running (hs : s.state = .running ∨ s.state = .blanking) (hc : isDelayStep s.stepCode = true)
    (hd : 0 < s.dlyCnt.toNat) : tick s = { s with dlyCnt := s.dlyCnt - 1#16 } := if_pos ⟨hs, hc, hd⟩

theorem tick_of_dlyCnt_zero (hd : s.dlyCnt.toNat = 0) : tick s = s := if_neg fun h => absurd hd h.2.2.ne'

/-- Settles O42, by the condition of the tick. -/
theorem tickCountsDown : Obligations.TickCountsDown := fun _ =>
  ⟨fun hs hc hd => ⟨_, dly_pred_toNat hd, tick_running hs (isDelayStep_iff.mpr hc) hd⟩,
    fun h => if_neg fun ⟨hs, hc, hd⟩ => h ⟨hs, isDelayStep_iff.mp hc, hd⟩⟩

/-- `k` ticks take `k` off a running delay, down to 0. -/
theorem tick_iterate (hs : s.state = .running ∨ s.state = .blanking) (hc : isDelayStep s.stepCode = true) (k : Nat) :
    ∃ d : Half, d.toNat = s.dlyCnt.toNat - k ∧ tick^[k] s = { s with dlyCnt := d } := by
  induction k with
  | zero => exact ⟨s.dlyCnt, rfl, rfl⟩
  | succ k ih =>
    obtain ⟨d, hd, hk⟩ := ih
    rw [Function.iterate_succ_apply', hk]
    rcases Nat.eq_zero_or_pos d.toNat with hzero | hpos
    · exact ⟨d, by omega, tick_of_dlyCnt_zero hzero⟩
    · exact ⟨d - 1#16, by rw [dly_pred_toNat hpos]; omega, tick_running (s := { s with dlyCnt := d }) hs hc hpos⟩

/-! ## From the latch to the end of the delay (R221, R222) -/

/-- The state after a latch answered `Ok` (R131): the delay of the state is loaded (R221). -/
def State.afterLatch (s : State) : State :=
  { s with
    history := s.history ++ [.write s.channel latch .ok], txPending := none, txAnswer := none,
    dlyCnt := s.delayMs, presc := 0, stepCode := s.delayCode }

theorem exec_txLatch_ok (hs : s.state = .running ∨ s.state = .blanking) (ha : s.txAnswer = some .ok)
    (h : exec .txLatch s = .next t) : t = s.afterLatch := by
  rw [exec_txLatch_eq hs, transact_ok ha, startDelay_eq] at h
  exact (Host.Outcome.next.inj h).symm

theorem delayCode_running (hs : s.state = .running) : s.delayCode = StepCode.rowDelay := if_pos hs

theorem delayCode_blanking (hs : s.state = .blanking) : s.delayCode = StepCode.passDelay := if_neg (by simp [hs])

/-- The delay micro-operation of either state is enabled at 0. -/
theorem exec_delay_eq (hs : s.state = .running ∨ s.state = .blanking) : exec (decodeStep s.delayCode) s =
    if s.dlyCnt = 0#16 then
      .next { s with history := s.history ++ [.delayDone s.delayMs], stepCode := s.afterDelay }
    else .next s := by
  rcases hs with hs | hs
  · rw [delayCode_running hs, delayMs_running hs, afterDelay_running hs]
    exact exec_rowDelay_eq hs
  · rw [delayCode_blanking hs, delayMs_blanking hs, afterDelay_blanking hs]
    exact exec_passDelay_eq hs

/-- After the latch and `k` ticks the delay micro-operation holds exactly while `k` is less than the delay. -/
theorem exec_delay_after_ticks (hs : s.state = .running ∨ s.state = .blanking) (k : Nat) :
    (k < s.delayMs.toNat →
      exec (decodeStep s.delayCode) (tick^[k] s.afterLatch) = .next (tick^[k] s.afterLatch))
    ∧ (s.delayMs.toNat ≤ k → exec (decodeStep s.delayCode) (tick^[k] s.afterLatch) = .next {
        (tick^[k] s.afterLatch) with
        history := s.afterLatch.history ++ [.delayDone s.delayMs], stepCode := s.afterDelay }) := by
  obtain ⟨d, hd, hk⟩ := tick_iterate (s := s.afterLatch) hs (isDelayStep_delayCode s) k
  have hover : d = 0#16 ↔ s.delayMs.toNat ≤ k := dly_eq_zero.trans (by rw [hd]; exact Nat.sub_eq_zero_iff_le)
  have hexec := exec_delay_eq (s := { s.afterLatch with dlyCnt := d }) hs
  rw [hk]
  exact ⟨fun hlt => hexec.trans (if_neg (mt hover.mp hlt.not_ge)), fun hle => hexec.trans (if_pos (hover.mpr hle))⟩

/-- Settles O43, by the delay of the state in which the latch was answered. -/
theorem delayLastsExactlyItsTicks : Obligations.DelayLastsExactlyItsTicks := by
  intro s t k ha h
  refine ⟨fun hs => ?_, fun hs => ?_⟩
  · obtain rfl := exec_txLatch_ok (.inl hs) ha h
    have hdelay := exec_delay_after_ticks (.inl hs) k
    rwa [delayCode_running hs, delayMs_running hs, afterDelay_running hs] at hdelay
  · obtain rfl := exec_txLatch_ok (.inr hs) ha h
    have hdelay := exec_delay_after_ticks (.inr hs) k
    rwa [delayCode_blanking hs, delayMs_blanking hs, afterDelay_blanking hs] at hdelay

/-! ## Clock cycles (R223) -/

theorem clockCycle_wraps (hc : isDelayStep s.stepCode = true) (hd : 0 < s.dlyCnt.toNat)
    (hp : s.presc = s.cfg.cyclesPerMs - 1) : clockCycle s = tick { s with presc := 0 } :=
  (if_pos ⟨hc, hd⟩).trans (if_pos hp)

theorem clockCycle_advances (hc : isDelayStep s.stepCode = true) (hd : 0 < s.dlyCnt.toNat)
    (hp : s.presc ≠ s.cfg.cyclesPerMs - 1) : clockCycle s = { s with presc := s.presc + 1 } :=
  (if_pos ⟨hc, hd⟩).trans (if_neg hp)

theorem clockCycle_of_dlyCnt_zero (hd : s.dlyCnt.toNat = 0) : clockCycle s = s := if_neg fun h => absurd hd h.2.ne'

/-- The cycle that completes a millisecond. -/
theorem succ_div_mod_of_last {k c : Nat} (hc : 0 < c) (h : k % c = c - 1) :
    (k + 1) / c = k / c + 1 ∧ (k + 1) % c = 0 :=
  (Nat.div_mod_unique hc).mpr ⟨by have := Nat.mod_add_div k c; rw [Nat.mul_succ]; omega, hc⟩

/-- A cycle within a millisecond. -/
theorem succ_div_mod_of_not_last {k c : Nat} (hc : 0 < c) (h : k % c ≠ c - 1) :
    (k + 1) / c = k / c ∧ (k + 1) % c = k % c + 1 :=
  have hlt := Nat.mod_lt k hc
  (Nat.div_mod_unique hc).mpr ⟨by have := Nat.mod_add_div k c; omega, by omega⟩

/-- `k` clock cycles of a delay whose prescaler is cleared take `k / CYCLES_PER_MS` off it, down to 0, and while it runs
the prescaler holds the cycles of the millisecond begun. -/
theorem clockCycle_iterate (hcycles : 0 < s.cfg.cyclesPerMs) (hp : s.presc = 0)
    (hs : s.state = .running ∨ s.state = .blanking) (hc : isDelayStep s.stepCode = true) (k : Nat) :
    ∃ (d : Half) (p : Nat), d.toNat = s.dlyCnt.toNat - k / s.cfg.cyclesPerMs
      ∧ (0 < d.toNat → p = k % s.cfg.cyclesPerMs) ∧ clockCycle^[k] s = { s with dlyCnt := d, presc := p } := by
  induction k with
  | zero => exact ⟨s.dlyCnt, s.presc, by simp, fun _ => by simp [hp], rfl⟩
  | succ k ih =>
    obtain ⟨d, p, hd, hpk, hk⟩ := ih
    rw [Function.iterate_succ_apply', hk]
    rcases Nat.eq_zero_or_pos d.toNat with hzero | hpos
    · have hmono := Nat.div_le_div_right (c := s.cfg.cyclesPerMs) (Nat.le_add_right k 1)
      exact ⟨d, p, by omega, fun h => absurd hzero h.ne', clockCycle_of_dlyCnt_zero hzero⟩
    rcases Decidable.em (p = s.cfg.cyclesPerMs - 1) with hlast | hlast
    · obtain ⟨hq, hr⟩ := succ_div_mod_of_last hcycles (hpk hpos ▸ hlast)
      refine ⟨d - 1#16, 0, by rw [dly_pred_toNat hpos, hq]; omega, fun _ => hr.symm, ?_⟩
      exact (clockCycle_wraps (s := { s with dlyCnt := d, presc := p }) hc hpos hlast).trans
        (tick_running (s := { s with dlyCnt := d, presc := 0 }) hs hc hpos)
    · obtain ⟨hq, hr⟩ := succ_div_mod_of_not_last hcycles (hpk hpos ▸ hlast)
      exact ⟨d, p + 1, by rw [hq, hd], fun _ => by rw [hr, hpk hpos],
        clockCycle_advances (s := { s with dlyCnt := d, presc := p }) hc hpos hlast⟩

/-- Settles O44: a delay of N is over exactly when `k / CYCLES_PER_MS` has reached N. -/
theorem delayLastsExactlyItsCycles : Obligations.DelayLastsExactlyItsCycles := by
  refine ⟨fun s hc hd =>
      ⟨clockCycle_wraps (isDelayStep_iff.mpr hc) hd, clockCycle_advances (isDelayStep_iff.mpr hc) hd⟩,
    fun s k hcfg hp hs hc => ?_⟩
  obtain ⟨-, -, -, -, hcycles⟩ := hcfg
  obtain ⟨d, p, hd, -, hk⟩ := clockCycle_iterate hcycles hp hs (isDelayStep_iff.mpr hc) k
  rw [hk]
  refine ⟨hd, ?_, rfl⟩
  show d.toNat = 0 ↔ _
  rw [hd, Nat.sub_eq_zero_iff_le, Nat.le_div_iff_mul_le hcycles]

end Sys2Proof.Machine
end

section
/-! PROOF. The order of a host transaction and another agent's step (60_exceptions.md R204). -/

namespace Sys2Proof.Machine

variable {s t u : State} {i : Instr} {w : HostWord}

/-! ## A host write outside IDLE -/

theorem endRead_eq_self (h : s.hostRdata = none) : s.endRead = s := by
  unfold State.endRead
  rw [← h]

theorem decodeHost_isWrite (hw : w.getLsbD 38 = true) :
    (isLockedWrite (decodeHost w) || isInertWrite (decodeHost w)) = true := by
  rw [show decodeHost w = decodeWrite (hostAddr w) (hostData w) from if_pos hw]
  exact decodeWrite_isWrite _ _

/-- The configuration lock (R161) leaves a host write nothing but to end the read before it. -/
theorem hostTurn_write_locked (hw : w.getLsbD 38 = true) (hs : s.state ≠ .idle) : hostTurn w s = .next s.endRead := by
  rcases Bool.or_eq_true_iff.mp (decodeHost_isWrite hw) with hi | hi
  · exact exec_lockedWrite hi hs
  · exact exec_inertWrite hi _

/-- No edge of the transition table leads to `IDLE`. -/
theorem ne_idle_of_isEdge {p p' : Phase} {c c' : MicroCode} (h : isEdge p c p' c' = true) : p' ≠ .idle := by
  have hmem := of_decide_eq_true h
  refine (?_ : ∀ e ∈ _, e.2.2.1 ≠ Phase.idle) _ hmem
  decide

theorem micro_ne_idle (hs : u.state ≠ .idle) (h : exec (decodeStep u.stepCode) u = .next t) : t.state ≠ .idle := by
  rcases micro_staysOrTakesEdge rfl h with ⟨hstays, -⟩ | hedge
  · rwa [hstays]
  · exact ne_idle_of_isEdge hedge

/-- A host write after a micro-operation outside `IDLE` changes nothing. -/
theorem hostTurn_write_after_micro (hw : w.getLsbD 38 = true) (hs : u.state ≠ .idle) (hr : u.hostRdata = none)
    (h : exec (decodeStep u.stepCode) u = .next t) : hostTurn w t = .next t := by
  have hread : t.hostRdata = none := (micro_kept h).1.hostRdata.trans hr
  rw [hostTurn_write_locked hw (micro_ne_idle hs h), endRead_eq_self hread]

/-- A transport's answer runs the micro-operation that waits for it, or is ignored. -/
theorem transportTurn_cases {a : Answer} (h : transportTurn a s = .next t) :
    exec (decodeStep s.stepCode) { s.endRead with txAnswer := some a } = .next t ∨ t = s.endRead := by
  unfold transportTurn at h
  split at h
  · exact .inl h
  · exact .inr (Host.Outcome.next.inj h).symm

/-! ## A host transaction and the timer or the byte stream -/

/-- The delay timer and the pending request replaced: what no host transaction reads or writes. -/
def State.withTimer (s : State) (d : Half) (n : Nat) (q : Option Pending) : State :=
  { s with dlyCnt := d, presc := n, txPending := q }

/-- A locked write is an effect under the lock, and the effect neither reads nor writes the timer or the request. -/
theorem lockedWrite_withTimer (hi : isLockedWrite i = true) : ∃ f, (∀ s, exec i s = .next (whenIdle f s))
    ∧ ∀ s d n q, f (State.withTimer s d n q) = (f s).withTimer d n q := by
  cases i <;> cases hi
  case wrCtrl data =>
    refine ⟨_, fun _ => rfl, fun s d n q => ?_⟩
    dsimp only
    cases ctrlFsReset data <;> cases ctrlStart data <;> rfl
  case wrFsData data =>
    refine ⟨_, fun _ => rfl, fun s d n q => ?_⟩
    dsimp only [State.withTimer]
    split <;> rfl
  all_goals exact ⟨_, fun _ => rfl, fun _ _ _ _ => rfl⟩

/-- A host transaction carries a change of the timer and the request through. -/
theorem exec_host_withTimer (hi : isHostInstr i = true) (h : exec i s = .next t) (d : Half) (n : Nat)
    (q : Option Pending) : exec i (s.withTimer d n q) = .next (t.withTimer d n q) := by
  simp only [isHostInstr, Bool.or_eq_true] at hi
  rcases hi with (hread | hlocked) | hinert
  · cases i <;> cases hread <;> cases h <;> rfl
  · obtain ⟨f, hf, hcomm⟩ := lockedWrite_withTimer hlocked
    obtain rfl := Host.Outcome.next.inj ((hf s).symm.trans h)
    rw [hf]
    by_cases hs : s.state = .idle
    · rw [whenIdle_idle hs, whenIdle_idle (s := s.withTimer d n q) hs, hcomm]
    · rw [whenIdle_locked hs, whenIdle_locked (s := s.withTimer d n q) hs]
  · obtain rfl := Host.Outcome.next.inj ((exec_inertWrite hinert s).symm.trans h)
    exact exec_inertWrite hinert _

theorem hostTurn_withTimer (h : hostTurn w s = .next t) (d : Half) (n : Nat) (q : Option Pending) :
    hostTurn w (s.withTimer d n q) = .next (t.withTimer d n q) :=
  exec_host_withTimer (decodeHost_isHostInstr w) h d n q

theorem HostEffect.of_hostTurn (h : hostTurn w s = .next t) : HostEffect s.endRead t :=
  HostEffect.of_exec h (decodeHost_isHostInstr w)

/-- A host transaction commutes with an accepted byte: it keeps the pending request. -/
theorem hostTurn_acceptByte (h : hostTurn w s = .next t) : hostTurn w (acceptByte s) = .next (acceptByte t) := by
  have hframe := (HostEffect.of_hostTurn h).frame
  have hd : t.dlyCnt = s.dlyCnt := by rw [hframe]; rfl
  have hn : t.presc = s.presc := by rw [hframe]; rfl
  have hq : t.txPending = s.txPending := by rw [hframe]; rfl
  refine (hostTurn_withTimer h s.dlyCnt s.presc (s.txPending.map Pending.accept)).trans (congrArg Host.Outcome.next ?_)
  rw [← hd, ← hn, ← hq]
  rfl

/-- A host transaction commutes with a step of the timer that does not look at the read data, and that changes nothing
while the host port is open. -/
theorem hostTurn_comm_of_frame {g : State → State} (hframe : ∃ d n, g s = s.withTimer d n s.txPending)
    (hread : ∀ r, g { s with hostRdata := r } = { g s with hostRdata := r })
    (hidle : s.state = .idle → g s = s ∧ g t = t) (h : hostTurn w s = .next t) : hostTurn w (g s) = .next (g t) := by
  by_cases hs : s.state = .idle
  · obtain ⟨hgs, hgt⟩ := hidle hs
    rwa [hgs, hgt]
  · obtain ⟨d, n, hg⟩ := hframe
    have hcomm := hostTurn_withTimer h d n s.txPending
    obtain ⟨r, rfl⟩ := (HostEffect.of_hostTurn h).eq_of_locked hs
    rw [hg, hcomm]
    refine congrArg Host.Outcome.next (Eq.symm ((hread r).trans ?_))
    rw [hg]
    rfl

theorem tick_hostRdata (s : State) (r : Option Word) :
    tick { s with hostRdata := r } = { tick s with hostRdata := r } := by
  dsimp only [tick]
  split <;> rfl

theorem clockCycle_hostRdata (s : State) (r : Option Word) :
    clockCycle { s with hostRdata := r } = { clockCycle s with hostRdata := r } := by
  dsimp only [clockCycle]
  split
  · split
    · exact tick_hostRdata { s with presc := 0 } r
    · rfl
  · rfl

/-- In `IDLE` and in `CONFIGURING` no delay runs. -/
theorem tick_outside_pass (hs : s.state = .idle ∨ s.state = .configuring) : tick s = s :=
  if_neg fun ⟨hpass, _⟩ => by rcases hs with hs | hs <;> simp [hs] at hpass

theorem not_delay_outside_pass (hs : s.state = .idle ∨ s.state = .configuring)
    (hl : s.state ∈ legalPhases s.stepCode) : isDelayStep s.stepCode = false := by
  have hcodes : ∀ c, .idle ∈ legalPhases c ∨ .configuring ∈ legalPhases c → isDelayStep c = false := by decide
  rcases hs with hs | hs <;> rw [hs] at hl
  · exact hcodes _ (.inl hl)
  · exact hcodes _ (.inr hl)

/-- From `IDLE` a host transaction leads to `IDLE` or, by START, to `CONFIGURING`. -/
theorem state_after_hostTurn (h : hostTurn w s = .next t) (hs : s.state = .idle) :
    t.state = .idle ∨ t.state = .configuring :=
  (HostEffect.of_hostTurn h).state_cases.imp_left (·.trans hs)

theorem hostTurn_tick (h : hostTurn w s = .next t) : hostTurn w (tick s) = .next (tick t) :=
  hostTurn_comm_of_frame ⟨_, _, (tick_frame s).1⟩ (tick_hostRdata s)
    (fun hs => ⟨tick_outside_pass (.inl hs), tick_outside_pass (state_after_hostTurn h hs)⟩) h

theorem hostTurn_clockCycle (h : hostTurn w s = .next t) (hl : s.state ∈ legalPhases s.stepCode) :
    hostTurn w (clockCycle s) = .next (clockCycle t) := by
  have hlt : t.state ∈ legalPhases t.stepCode := ((HostEffect.of_hostTurn h).staysOrTakesEdge hl).legal hl
  exact hostTurn_comm_of_frame ⟨_, _, (clockCycle_frame s).1⟩ (clockCycle_hostRdata s)
    (fun hs => ⟨(clockCycle_frame s).2 (not_delay_outside_pass (.inl hs) hl),
      (clockCycle_frame t).2 (not_delay_outside_pass (state_after_hostTurn h hs) hlt)⟩) h

/-! ## Every agent -/

/-- Settles O53, by the agent: outside `IDLE` the lock leaves a write nothing to do, and in `IDLE` the sequencer waits;
an ignored answer only ends a read; the timer and the byte stream share no field with the host port. -/
theorem hostWriteOrderIsUnobservable : Obligations.HostWriteOrderIsUnobservable := by
  refine ⟨fun w s t hw hs h => ?_, fun w a s t hw hs h => ?_, fun a s hs hc => ?_, fun w s t hw h => ?_,
    fun w s t h => ⟨hostTurn_tick h, hostTurn_clockCycle h, hostTurn_acceptByte h⟩⟩
  · exact ⟨s.endRead, hostTurn_write_locked hw hs, h, hostTurn_write_after_micro (u := s.endRead) hw hs rfl h⟩
  · refine ⟨s.endRead, hostTurn_write_locked hw hs, h, ?_⟩
    rcases transportTurn_cases h with hmicro | rfl
    · exact hostTurn_write_after_micro (u := { s.endRead with txAnswer := some a }) hw hs rfl hmicro
    · exact hostTurn_write_locked hw hs
  · refine ⟨?_, if_neg (by rw [hc]; decide)⟩
    show exec (decodeStep s.stepCode) s.endRead = .next s.endRead
    rw [hc]
    exact exec_waitStart_eq hs
  · have hread : t.hostRdata = none := exec_write_hostRdata (decodeHost_isWrite hw) h
    exact ⟨s.endRead, rfl, h, congrArg Host.Outcome.next (endRead_eq_self hread)⟩

end Sys2Proof.Machine
end

section
/-! PROOF. START and reset as the two ways between `IDLE` and the other states, what reset sets and what it abandons, and
a clock edge without input (70_reset_and_hazards.md R230 to R243). -/

namespace Sys2Proof.Machine

variable {s t : State}

/-! ## START leaves IDLE, and only reset leads back (R235) -/

theorem exec_wrCtrl_start {d : Word} (hd : ctrlStart d = true) (s : State) :
    ∃ t, exec (.wrCtrl d) s = .next t ∧ t.state ≠ .idle := by
  by_cases hs : s.state = .idle
  · exact ⟨_, exec_wrCtrl_idle hs d, (if_pos hd).trans_ne (by decide)⟩
  · exact ⟨s, exec_lockedWrite rfl hs, hs⟩

/-- Outside `IDLE` the edges of the transition table keep out of it, and the other agents do not touch `STATE`. -/
theorem step_ne_idle (hs : s.state ≠ .idle) (hr : s.nextTurn ≠ .reset) (h : step s = .next t) : t.state ≠ .idle := by
  cases step_effect h with
  | micro u _ hu _ hexec =>
    have hcode : u.stepCode = s.stepCode := by rw [hu]
    have hstate : u.state = s.state := by rw [hu]
    exact micro_ne_idle (hstate ▸ hs) (hcode ▸ hexec)
  | ignored => exact hs
  | accept => exact hs
  | host _ heffect => exact heffect.state_cases.elim (fun e => e ▸ hs) (fun e => by simp [e])
  | tick =>
    rw [(tick_frame _).1]
    exact hs
  | cycle =>
    rw [(clockCycle_frame _).1]
    exact hs
  | reset hreset => exact absurd hreset hr

theorem Phase.code_ne_zero {p : Phase} (h : p ≠ .idle) : p.code ≠ 0#3 := by
  revert h
  cases p <;> decide

/-- Settles O18: in `IDLE` START enters `CONFIGURING`, elsewhere the lock keeps the state, and STATUS shows the code of
the state. -/
theorem startLeavesIdleUntilReset : Obligations.StartLeavesIdleUntilReset :=
  ⟨fun _ s hd => exec_wrCtrl_start hd s, fun _ _ => step_ne_idle,
    fun s hs => ⟨s.statusWord, rfl, statusWord_state rfl ▸ Phase.code_ne_zero hs⟩⟩

/-! ## Reset (R230, R231, R233) -/

/-- With `FS_PTR` = 0 no byte of the frame store counts as written (R184). -/
theorem fsRead_ne_ok_of_fsPtr_zero (h : s.fsPtr = 0#32) (a : Nat) (b : Byte) : fsRead s a ≠ .ok b := by
  intro hread
  obtain ⟨-, hwritten, -⟩ := fsRead_eq_ok.mp hread
  rw [h] at hwritten
  exact Nat.not_lt_zero a hwritten

/-- With `WIDTH` = 0 a frame has no byte. -/
theorem scratchRead_ne_ok_of_width_zero (h : s.width = 0#16) (a : Nat) (b : Byte) : scratchRead s a ≠ .ok b := by
  intro hread
  obtain ⟨-, hframe, -⟩ := scratchRead_eq_ok.mp hread
  rw [State.rowBytes, h] at hframe
  exact Nat.not_lt_zero a hframe

/-- Settles O6: the fields are those of the definition, and `FS_PTR` and `WIDTH` are 0. -/
theorem resetValues : Obligations.ResetValues :=
  ⟨rfl, rfl, rfl, rfl, rfl, rfl, rfl, rfl, rfl, rfl, rfl, rfl, rfl, rfl, rfl, rfl,
    fsRead_ne_ok_of_fsPtr_zero rfl, scratchRead_ne_ok_of_width_zero rfl, rfl, by decide, by decide⟩

/-- Settles O7: the step is the reset action, and it sets `FS_PTR` to 0. -/
theorem resetTurnKeepsOnlyStorage : Obligations.ResetTurnKeepsOnlyStorage :=
  fun _ hn => ⟨_, step_reset hn, rfl, fsRead_ne_ok_of_fsPtr_zero rfl⟩

/-! ## Abandoned requests (R232) -/

/-- Settles O57: reset leaves no request pending, and an ignored answer does not touch the one that is. -/
theorem abandonedRequestsAndTheirAnswers : Obligations.AbandonedRequestsAndTheirAnswers :=
  ⟨fun _ hn => ⟨_, step_reset hn, rfl, rfl, rfl⟩, fun _ _ hn => ⟨_, step_abandoned hn, rfl, rfl, rfl, rfl, rfl⟩⟩

/-! ## A clock edge without input (R243, R224) -/

theorem answerEdge_of_not_done {e : Edge} (h : e.pins.txDone = false) (s : State) : s.answerEdge e = [] := by
  simp [State.answerEdge, Pins.answer, h]

/-- Without input and without a sequencer step, the timer's clock cycle is all that the edge presents. -/
theorem edgeTurns_quiet {e : Edge} (hrst : e.pins.rst = false) (hhost : e.pins.hostValid = false)
    (hready : e.pins.txDataReady = false) (hdone : e.pins.txDone = false) (hsteps : e.steps = 0) (s : State) :
    s.edgeTurns e = [.cycle] := by
  simp [State.edgeTurns, answerEdge_of_not_done hdone, hrst, hhost, hready, hsteps]

theorem step_presentEdge_of_cycle {e : Edge} (h : s.edgeTurns e = [.cycle]) :
    step (s.presentEdge e) = .next { clockCycle s with hostRdata := none } := by
  have hcycle : s.presentEdge e = { s with hostRdata := none, agenda := .cycle :: s.agenda } := by
    rw [State.presentEdge, h]
    rfl
  rw [hcycle, step_cycle rfl]
  exact congrArg Host.Outcome.next (clockCycle_hostRdata s none)

/-- Settles O58: the edge presents a clock cycle alone, which outside a delay changes nothing. -/
theorem aQuietEdgeNeedNotStepTheSequencer : Obligations.AQuietEdgeNeedNotStepTheSequencer := by
  intro s e hrst hhost hready hdone hsteps
  have hstep := step_presentEdge_of_cycle (edgeTurns_quiet hrst hhost hready hdone hsteps s)
  refine ⟨hstep, fun hdelay => ?_⟩
  rw [hstep, (clockCycle_frame s).2 hdelay]

end Sys2Proof.Machine
end

section
/-! PROOF. A read of a storage byte that was never written stops the micro-operation that needs it
(93_implementation_defined.md I1, I2, 92_eei_decisions.md D33). -/

namespace Sys2Proof.Machine

variable {s : State}

/-! ## One byte of storage -/

theorem fsRead_faults_of_unwritten {a : Nat} (h : s.fsPtr.toNat ≤ a ∨ s.fs.read a = none) :
    ∃ f, fsRead s a = .error f := by
  cases hread : fsRead s a with
  | error f => exact ⟨f, rfl⟩
  | ok b =>
    obtain ⟨-, hbelow, hlisted⟩ := fsRead_eq_ok.mp hread
    rcases h with hptr | hnone
    · exact absurd hbelow hptr.not_gt
    · cases hnone.symm.trans hlisted

theorem scratchRead_faults_of_unwritten {a : Nat} (h : s.scratch.read a = none) :
    ∃ f, scratchRead s a = .error f := by
  cases hread : scratchRead s a with
  | error f => exact ⟨f, rfl⟩
  | ok b =>
    obtain ⟨-, -, hlisted⟩ := scratchRead_eq_ok.mp hread
    cases h.symm.trans hlisted

/-! ## The row and the frame -/

/-- One unwritten byte of the current row is enough: LOAD_ROW reads the whole row before it stores any of it. -/
theorem exec_loadRow_faults {j : Nat} (hs : s.state = .running) (hj : j < s.rowBytes)
    (h : s.fsPtr.toNat ≤ s.rowBase + j ∨ s.fs.read (s.rowBase + j) = none) : ∃ f, exec .loadRow s = .fault f := by
  obtain ⟨_, hbyte⟩ := fsRead_faults_of_unwritten h
  obtain ⟨f, hrow⟩ := readRange_fault hj hbyte
  refine ⟨f, (onLegalPair_of_mem _ (by simp [hs])).trans ?_⟩
  rw [hrow, orFault_error]

theorem frame_faults_of_unwritten {j : Nat} (hj : j < s.rowBytes) (h : s.scratch.read j = none) :
    ∃ f, readRange (scratchRead s) 0 s.rowBytes = .error f := by
  obtain ⟨_, hbyte⟩ := scratchRead_faults_of_unwritten h
  exact readRange_fault hj ((Nat.zero_add j).symm ▸ hbyte)

theorem exec_encodeBuf_fault {f : Fault} (hs : s.state = .running ∨ s.state = .blanking)
    (h : readRange (scratchRead s) 0 s.rowBytes = .error f) : exec .encodeBuf s = .fault f := by
  refine (onLegalPair_of_mem _ (by simpa using hs)).trans ?_
  rw [h, orFault_error]

/-- The payload is read before it is sent, so that no request is recorded where it cannot be read. -/
theorem exec_txPayload_fault {f : Fault} (hs : s.state = .running ∨ s.state = .blanking)
    (h : readRange (scratchRead s) 0 s.rowBytes = .error f) : exec .txPayload s = .fault f := by
  refine (onLegalPair_of_mem _ (by simpa using hs)).trans ?_
  rw [h, orFault_error]

/-- Settles O39: the read of the row, or of the frame, that the micro-operation begins with meets the unwritten byte. -/
theorem unwrittenStorageFaults : Obligations.UnwrittenStorageFaults := by
  refine ⟨fun s j hs hj h => exec_loadRow_faults hs hj h, fun s j hs hj h => ?_⟩
  obtain ⟨f, hframe⟩ := frame_faults_of_unwritten hj h
  exact ⟨⟨f, exec_encodeBuf_fault hs hframe⟩, ⟨f, exec_txPayload_fault hs hframe⟩⟩

end Sys2Proof.Machine
end
